-- ==== Sys2Proof/Word.lean ====
section
/-! DEFINITION. The word types of the CHIP-8 core (00_scope.md R9). -/

namespace Sys2Proof

/-- A general register, a timer, a memory cell, the immediate NN: 8 bits, unsigned (R9, R20). -/
abbrev Byte := BitVec 8

/-- PC, I, a stack entry, an instruction word: 16 bits, unsigned (R9, R22, R23, R70). -/
abbrev Word := BitVec 16

/-- A `u4`: a register index X or Y, the count N, a key code (R9, R72). -/
abbrev Nibble := BitVec 4

/-- The 12-bit address field NNN (R72). -/
abbrev Addr12 := BitVec 12

end Sys2Proof
end

