-- ==== Sys2Proof/Syntax.lean ====
section
/-! DEFINITION. The instructions: one constructor per row of spec/opcode_table.json (30_encoding.md R75), and the
decoded fields of a word (R72). -/

namespace Sys2Proof

/-- The 34 instructions of the base CHIP-8 opcode table (R2, R75). X, Y are register indices 0..15, NN an 8-bit
immediate, NNN a 12-bit address, N a 4-bit count (R73). -/
inductive Instr where
  /-- 00E0, CLS -/
  | cls
  /-- 00EE, RET -/
  | ret
  /-- 1NNN, JP -/
  | jp (nnn : Addr12)
  /-- 2NNN, CALL -/
  | call (nnn : Addr12)
  /-- 3XNN, SE_VX_NN -/
  | seVxNn (x : Nibble) (nn : Byte)
  /-- 4XNN, SNE_VX_NN -/
  | sneVxNn (x : Nibble) (nn : Byte)
  /-- 5XY0, SE_VX_VY -/
  | seVxVy (x y : Nibble)
  /-- 6XNN, LD_VX_NN -/
  | ldVxNn (x : Nibble) (nn : Byte)
  /-- 7XNN, ADD_VX_NN -/
  | addVxNn (x : Nibble) (nn : Byte)
  /-- 8XY0, LD_VX_VY -/
  | ldVxVy (x y : Nibble)
  /-- 8XY1, OR -/
  | orVxVy (x y : Nibble)
  /-- 8XY2, AND -/
  | andVxVy (x y : Nibble)
  /-- 8XY3, XOR -/
  | xorVxVy (x y : Nibble)
  /-- 8XY4, ADD_VX_VY -/
  | addVxVy (x y : Nibble)
  /-- 8XY5, SUB -/
  | sub (x y : Nibble)
  /-- 8XY6, SHR -/
  | shr (x y : Nibble)
  /-- 8XY7, SUBN -/
  | subn (x y : Nibble)
  /-- 8XYE, SHL -/
  | shl (x y : Nibble)
  /-- 9XY0, SNE_VX_VY -/
  | sneVxVy (x y : Nibble)
  /-- ANNN, LD_I_NNN -/
  | ldINnn (nnn : Addr12)
  /-- BNNN, JP_VX_NNN: X is the top nibble of NNN (R74) -/
  | jpVxNnn (x : Nibble) (nnn : Addr12)
  /-- CXNN, RND -/
  | rnd (x : Nibble) (nn : Byte)
  /-- DXYN, DRW -/
  | drw (x y n : Nibble)
  /-- EX9E, SKP -/
  | skp (x : Nibble)
  /-- EXA1, SKNP -/
  | sknp (x : Nibble)
  /-- FX07, LD_VX_DT -/
  | ldVxDt (x : Nibble)
  /-- FX0A, LD_VX_K -/
  | ldVxK (x : Nibble)
  /-- FX15, LD_DT_VX -/
  | ldDtVx (x : Nibble)
  /-- FX18, LD_ST_VX -/
  | ldStVx (x : Nibble)
  /-- FX1E, ADD_I_VX -/
  | addIVx (x : Nibble)
  /-- FX29, LD_F_VX -/
  | ldFVx (x : Nibble)
  /-- FX33, LD_B_VX -/
  | ldBVx (x : Nibble)
  /-- FX55, LD_MEM_I_VX -/
  | ldMemIVx (x : Nibble)
  /-- FX65, LD_VX_MEM_I -/
  | ldVxMemI (x : Nibble)
  deriving DecidableEq, Repr

/-- `instructionFields` (R29, R72): all fields of a word, extracted whatever instruction it is. -/
structure InstructionFields where
  raw : Word
  op : Nibble
  nnn : Addr12
  nn : Byte
  n : Nibble
  x : Nibble
  y : Nibble
  deriving DecidableEq, Repr

end Sys2Proof
end

