-- ==== Sys2Proof/Decode.lean ====
section
/-! DEFINITION. Decoder and encoder (30_encoding.md): field extraction, dispatch by the top nibble, the opcode table's
match and mask, and the words of an instruction. -/

namespace Sys2Proof

/-- Why bytes are no instruction. -/
inductive DecodeError where
  /-- Fewer than two bytes were given. -/
  | truncated
  /-- No row of the opcode table matches the word (R77). -/
  | unrecognized (w : Word)
  deriving DecidableEq, Repr

/-- "`high<<8 | low`" (R53, R101). -/
def joinBytes (hi lo : Byte) : Word := (hi.setWidth 16 <<< 8) ||| lo.setWidth 16

/-- The byte of a word that stands at the lower address (R53). -/
def highByte (w : Word) : Byte := w.extractLsb' 8 8

/-- The byte of a word that stands at the higher address (R53). -/
def lowByte (w : Word) : Byte := w.extractLsb' 0 8

/-- Field extraction, from every word alike (R72). -/
def fields (w : Word) : InstructionFields where
  raw := w
  op := w.extractLsb' 12 4
  nnn := w.extractLsb' 0 12
  nn := w.extractLsb' 0 8
  n := w.extractLsb' 0 4
  x := w.extractLsb' 8 4
  y := w.extractLsb' 4 4

/-- Dispatch on the top four bits, then on the whole word, the low nibble or the low byte (R75). A word that matches
no row is unrecognized (R76, R77). -/
def decodeWord (w : Word) : Except DecodeError Instr :=
  let f := fields w
  match f.op with
  | 0x0#4 =>
    match f.raw with
    | 0x00E0#16 => .ok .cls
    | 0x00EE#16 => .ok .ret
    | _ => .error (.unrecognized w)
  | 0x1#4 => .ok (.jp f.nnn)
  | 0x2#4 => .ok (.call f.nnn)
  | 0x3#4 => .ok (.seVxNn f.x f.nn)
  | 0x4#4 => .ok (.sneVxNn f.x f.nn)
  | 0x5#4 =>
    match f.n with
    | 0x0#4 => .ok (.seVxVy f.x f.y)
    | _ => .error (.unrecognized w)
  | 0x6#4 => .ok (.ldVxNn f.x f.nn)
  | 0x7#4 => .ok (.addVxNn f.x f.nn)
  | 0x8#4 =>
    match f.n with
    | 0x0#4 => .ok (.ldVxVy f.x f.y)
    | 0x1#4 => .ok (.orVxVy f.x f.y)
    | 0x2#4 => .ok (.andVxVy f.x f.y)
    | 0x3#4 => .ok (.xorVxVy f.x f.y)
    | 0x4#4 => .ok (.addVxVy f.x f.y)
    | 0x5#4 => .ok (.sub f.x f.y)
    | 0x6#4 => .ok (.shr f.x f.y)
    | 0x7#4 => .ok (.subn f.x f.y)
    | 0xE#4 => .ok (.shl f.x f.y)
    | _ => .error (.unrecognized w)
  | 0x9#4 =>
    match f.n with
    | 0x0#4 => .ok (.sneVxVy f.x f.y)
    | _ => .error (.unrecognized w)
  | 0xA#4 => .ok (.ldINnn f.nnn)
  | 0xB#4 => .ok (.jpVxNnn f.x f.nnn)
  | 0xC#4 => .ok (.rnd f.x f.nn)
  | 0xD#4 => .ok (.drw f.x f.y f.n)
  | 0xE#4 =>
    match f.nn with
    | 0x9E#8 => .ok (.skp f.x)
    | 0xA1#8 => .ok (.sknp f.x)
    | _ => .error (.unrecognized w)
  | 0xF#4 =>
    match f.nn with
    | 0x07#8 => .ok (.ldVxDt f.x)
    | 0x0A#8 => .ok (.ldVxK f.x)
    | 0x15#8 => .ok (.ldDtVx f.x)
    | 0x18#8 => .ok (.ldStVx f.x)
    | 0x1E#8 => .ok (.addIVx f.x)
    | 0x29#8 => .ok (.ldFVx f.x)
    | 0x33#8 => .ok (.ldBVx f.x)
    | 0x55#8 => .ok (.ldMemIVx f.x)
    | 0x65#8 => .ok (.ldVxMemI f.x)
    | _ => .error (.unrecognized w)
  | _ => .error (.unrecognized w)

/-- The decoder on bytes as they lie in memory: the first two, big-endian, are the instruction (R53, R70); the rest
is handed back. -/
def decodeBytes : List Byte → Except DecodeError (Instr × List Byte)
  | hi :: lo :: rest => (decodeWord (joinBytes hi lo)).map (fun i => (i, rest))
  | [_] | [] => .error .truncated

/-- A word of the forms `xnn` and `x`: op, X and a low byte (R71). -/
def packXNN (op x : Nibble) (nn : Byte) : Word :=
  (op.setWidth 16 <<< 12) ||| (x.setWidth 16 <<< 8) ||| nn.setWidth 16

/-- A word of the forms `nnn` and `xnnn`: op and NNN (R71). -/
def packNNN (op : Nibble) (nnn : Addr12) : Word := (op.setWidth 16 <<< 12) ||| nnn.setWidth 16

/-- A word of the forms `xy` and `xyn`: op, X, Y and a low nibble (R71). -/
def packXYN (op x y n : Nibble) : Word :=
  (op.setWidth 16 <<< 12) ||| (x.setWidth 16 <<< 8) ||| (y.setWidth 16 <<< 4) ||| n.setWidth 16

/-- The word of an instruction (the encodings of R71, R75). -/
def encodeWord : Instr → Word
  | .cls => 0x00E0#16
  | .ret => 0x00EE#16
  | .jp nnn => packNNN 0x1 nnn
  | .call nnn => packNNN 0x2 nnn
  | .seVxNn x nn => packXNN 0x3 x nn
  | .sneVxNn x nn => packXNN 0x4 x nn
  | .seVxVy x y => packXYN 0x5 x y 0x0
  | .ldVxNn x nn => packXNN 0x6 x nn
  | .addVxNn x nn => packXNN 0x7 x nn
  | .ldVxVy x y => packXYN 0x8 x y 0x0
  | .orVxVy x y => packXYN 0x8 x y 0x1
  | .andVxVy x y => packXYN 0x8 x y 0x2
  | .xorVxVy x y => packXYN 0x8 x y 0x3
  | .addVxVy x y => packXYN 0x8 x y 0x4
  | .sub x y => packXYN 0x8 x y 0x5
  | .shr x y => packXYN 0x8 x y 0x6
  | .subn x y => packXYN 0x8 x y 0x7
  | .shl x y => packXYN 0x8 x y 0xE
  | .sneVxVy x y => packXYN 0x9 x y 0x0
  | .ldINnn nnn => packNNN 0xA nnn
  | .jpVxNnn _ nnn => packNNN 0xB nnn
  | .rnd x nn => packXNN 0xC x nn
  | .drw x y n => packXYN 0xD x y n
  | .skp x => packXNN 0xE x 0x9E
  | .sknp x => packXNN 0xE x 0xA1
  | .ldVxDt x => packXNN 0xF x 0x07
  | .ldVxK x => packXNN 0xF x 0x0A
  | .ldDtVx x => packXNN 0xF x 0x15
  | .ldStVx x => packXNN 0xF x 0x18
  | .addIVx x => packXNN 0xF x 0x1E
  | .ldFVx x => packXNN 0xF x 0x29
  | .ldBVx x => packXNN 0xF x 0x33
  | .ldMemIVx x => packXNN 0xF x 0x55
  | .ldVxMemI x => packXNN 0xF x 0x65

/-- A word as it lies in memory, the byte at the lower address first (R53). -/
def wordBytes (w : Word) : List Byte := [highByte w, lowByte w]

/-- The bytes of an instruction as they lie in memory. -/
def encode (i : Instr) : List Byte := wordBytes (encodeWord i)

/-- A row of the opcode table (R75, R82): `w &&& mask = pattern` selects it (`pattern` is the table's "match"), and
`build` assembles the instruction from the word's fields. -/
structure OpcodeRow where
  pattern : Word
  mask : Word
  build : InstructionFields → Instr

/-- The opcode table of R75, row by row, as the spec lists it. `decodeWord` does not read it; that the two agree is a
statement. -/
def opcodeTable : List OpcodeRow :=
  [⟨0x00E0, 0xFFFF, fun _ => .cls⟩, ⟨0x00EE, 0xFFFF, fun _ => .ret⟩,
   ⟨0x1000, 0xF000, fun f => .jp f.nnn⟩, ⟨0x2000, 0xF000, fun f => .call f.nnn⟩,
   ⟨0x3000, 0xF000, fun f => .seVxNn f.x f.nn⟩, ⟨0x4000, 0xF000, fun f => .sneVxNn f.x f.nn⟩,
   ⟨0x5000, 0xF00F, fun f => .seVxVy f.x f.y⟩, ⟨0x6000, 0xF000, fun f => .ldVxNn f.x f.nn⟩,
   ⟨0x7000, 0xF000, fun f => .addVxNn f.x f.nn⟩] ++
  [⟨0x8000, 0xF00F, fun f => .ldVxVy f.x f.y⟩, ⟨0x8001, 0xF00F, fun f => .orVxVy f.x f.y⟩,
   ⟨0x8002, 0xF00F, fun f => .andVxVy f.x f.y⟩, ⟨0x8003, 0xF00F, fun f => .xorVxVy f.x f.y⟩,
   ⟨0x8004, 0xF00F, fun f => .addVxVy f.x f.y⟩, ⟨0x8005, 0xF00F, fun f => .sub f.x f.y⟩,
   ⟨0x8006, 0xF00F, fun f => .shr f.x f.y⟩, ⟨0x8007, 0xF00F, fun f => .subn f.x f.y⟩,
   ⟨0x800E, 0xF00F, fun f => .shl f.x f.y⟩, ⟨0x9000, 0xF00F, fun f => .sneVxVy f.x f.y⟩] ++
  [⟨0xA000, 0xF000, fun f => .ldINnn f.nnn⟩, ⟨0xB000, 0xF000, fun f => .jpVxNnn f.x f.nnn⟩,
   ⟨0xC000, 0xF000, fun f => .rnd f.x f.nn⟩, ⟨0xD000, 0xF000, fun f => .drw f.x f.y f.n⟩,
   ⟨0xE09E, 0xF0FF, fun f => .skp f.x⟩, ⟨0xE0A1, 0xF0FF, fun f => .sknp f.x⟩] ++
  [⟨0xF007, 0xF0FF, fun f => .ldVxDt f.x⟩, ⟨0xF00A, 0xF0FF, fun f => .ldVxK f.x⟩,
   ⟨0xF015, 0xF0FF, fun f => .ldDtVx f.x⟩, ⟨0xF018, 0xF0FF, fun f => .ldStVx f.x⟩,
   ⟨0xF01E, 0xF0FF, fun f => .addIVx f.x⟩, ⟨0xF029, 0xF0FF, fun f => .ldFVx f.x⟩,
   ⟨0xF033, 0xF0FF, fun f => .ldBVx f.x⟩, ⟨0xF055, 0xF0FF, fun f => .ldMemIVx f.x⟩,
   ⟨0xF065, 0xF0FF, fun f => .ldVxMemI f.x⟩]

/-- Whether a row selects a word (R75). -/
def OpcodeRow.selects (r : OpcodeRow) (w : Word) : Bool := w &&& r.mask == r.pattern

/-- The bytes in memory of an instruction whose bits, as spec/opcode_table.json numbers them, are `w`; bits from
`nbits` up are 0. The longest instruction is one word (R70). -/
def tableWordBytes (nbits w : Nat) : List Byte := wordBytes (BitVec.ofNat 16 (w % 2 ^ nbits))

/-- The instruction the decoder reads from those bytes. -/
def decodeTableWord (nbits w : Nat) : Option Instr :=
  match decodeBytes (tableWordBytes nbits w) with
  | .ok (i, _) => some i
  | .error _ => none

end Sys2Proof
end

