-- ==== Sys2Proof/Config.lean ====
section
/-! DEFINITION. The parameters of one machine instance (00_scope.md R8) and the free value of CXNN (42_alu.md R152). -/

namespace Sys2Proof

/-- `KEY_INDEX_POLICY` (R8, R216): what EX9E and EXA1 do with a key number above 0x0F. -/
inductive KeyIndexPolicy where
  | fault
  | mask
  deriving DecidableEq, Repr

/-- The 80 bytes of the default `FONT` (R57), glyphs 0 to F, five bytes each.
PRESUMED by the spec itself ("from general knowledge, not in source", K1): log 7, unsafe. -/
def defaultFontBytes : List Byte :=
  [0xF0, 0x90, 0x90, 0x90, 0xF0] ++ [0x20, 0x60, 0x20, 0x20, 0x70] ++
  [0xF0, 0x10, 0xF0, 0x80, 0xF0] ++ [0xF0, 0x10, 0xF0, 0x10, 0xF0] ++
  [0x90, 0x90, 0xF0, 0x10, 0x10] ++ [0xF0, 0x80, 0xF0, 0x10, 0xF0] ++
  [0xF0, 0x80, 0xF0, 0x90, 0xF0] ++ [0xF0, 0x10, 0x20, 0x40, 0x40] ++
  [0xF0, 0x90, 0xF0, 0x90, 0xF0] ++ [0xF0, 0x90, 0xF0, 0x10, 0xF0] ++
  [0xF0, 0x90, 0xF0, 0x90, 0x90] ++ [0xE0, 0x90, 0xE0, 0x90, 0xE0] ++
  [0xF0, 0x80, 0x80, 0x80, 0xF0] ++ [0xE0, 0x90, 0x90, 0x90, 0xE0] ++
  [0xF0, 0x80, 0xF0, 0x80, 0xF0] ++ [0xF0, 0x80, 0xF0, 0x80, 0x80]

/-- The default table as a `FONT` parameter: 80 bytes. -/
def defaultFont : Vector Byte 80 := ⟨defaultFontBytes.toArray, by decide⟩

/-- The parameters of R8 that the source leaves configurable. They are fixed for the lifetime of one
machine instance (R33, D24); the model carries the record in `Machine.State` (log 1). -/
structure Config where
  /-- `DISP_W`, columns of the display. -/
  dispW : Nat
  /-- `DISP_H`, rows of the display. -/
  dispH : Nat
  /-- `ENTRY`, where Load places the image and execution begins. -/
  entry : Word
  /-- `FONT`, the bytes of memory[0x000..0x04F] at creation. -/
  font : Vector Byte 80
  quirkLogicResetsVF : Bool
  quirkShiftReadsVY : Bool
  quirkJumpOffsetVX : Bool
  quirkMemIncrementI : Bool
  keyIndexPolicy : KeyIndexPolicy
  deriving DecidableEq, Repr

/-- The default of every parameter: "The reference behavior" (R8). -/
def Config.default : Config where
  dispW := 64
  dispH := 32
  entry := 0x200#16
  font := defaultFont
  quirkLogicResetsVF := true
  quirkShiftReadsVY := true
  quirkJumpOffsetVX := true
  quirkMemIncrementI := false
  keyIndexPolicy := .fault

/-- The ranges of R8: `DISP_W`, `DISP_H` at least 1 (D27), `ENTRY` in 0x200..0xFFF (D22). -/
def Config.valid (c : Config) : Bool :=
  decide (1 ≤ c.dispW) && decide (1 ≤ c.dispH) &&
    decide (0x200 ≤ c.entry.toNat) && decide (c.entry.toNat ≤ 0xFFF)

/-- FREE VALUE. `random_byte()` of CXNN: the n-th draw of the instance. The source gives no generator, seed or
distribution, so "a model admits every value" (R152, D21). No body: nothing can be proved of its value (log 2, safe). -/
opaque Config.randomByte : Nat → Byte

end Sys2Proof
end

