-- ==== Sys2Proof/Machine/Memory.lean ====
section
/-! DEFINITION. Memory as plain data: the cells that differ from their creation value, by rising address (20_memory.md). -/

namespace Sys2Proof.Machine

/-- The memory: a list of (address, byte), addresses strictly rising and below 4096, no byte equal to what an
unlisted address reads as (`Memory.wf`). -/
abbrev Memory := List Host.Cell

/-- `MEM_SIZE`: "fixed size 4096" (R8, R50). -/
def memSize : Nat := 4096

/-- What an address nothing has written reads as: the default `FONT` in 0x000..0x04F (R56, R57; log 7), 0x00 elsewhere
(R35, D15; log 8). An instance with another `FONT` has those bytes written at creation (`State.create`). -/
def Memory.unlisted (a : Nat) : Byte := defaultFontBytes.getD a 0x00#8

/-- The byte at an address (R59). -/
def Memory.read : Memory → Nat → Byte
  | [], a => Memory.unlisted a
  | (k, b) :: m, a => if k = a then b else Memory.read m a

/-- Take an address off the list, so that it reads as at creation. -/
def Memory.erase : Memory → Nat → Memory
  | [], _ => []
  | (k, b) :: m, a => if k = a then m else (k, b) :: Memory.erase m a

/-- List an address with a byte, keeping the addresses rising. -/
def Memory.insert : Memory → Nat → Byte → Memory
  | [], a, b => [(a, b)]
  | (k, c) :: m, a, b =>
    if a < k then (a, b) :: (k, c) :: m
    else if a = k then (a, b) :: m
    else (k, c) :: Memory.insert m a b

/-- Set the byte at an address, in canonical form. -/
def Memory.write (m : Memory) (a : Nat) (b : Byte) : Memory :=
  if b = Memory.unlisted a then Memory.erase m a else Memory.insert m a b

/-- The canonical form of a list whose addresses start at `lo` or above. -/
def Memory.wfFrom : Nat → Memory → Bool
  | _, [] => true
  | lo, (k, b) :: m =>
    decide (lo ≤ k) && decide (k < memSize) && (b != Memory.unlisted k) && Memory.wfFrom (k + 1) m

/-- The canonical form: addresses strictly rising, inside the address space, no byte that need not be listed. -/
def Memory.wf (m : Memory) : Bool := Memory.wfFrom 0 m

/-- Set consecutive bytes, the first at `a`, in rising order, every address modulo 4096 (R12, R51). -/
def Memory.storeBytes : Memory → Nat → List Byte → Memory
  | m, _, [] => m
  | m, a, b :: bs => Memory.storeBytes (Memory.write m (a % memSize) b) (a + 1) bs

end Sys2Proof.Machine
end

