-- ==== Sys2Proof/Machine/State.lean ====
section
/-! DEFINITION. The state of a machine instance (10_state.md) and its value after reset (R35, R270). -/

namespace Sys2Proof.Machine

/-- The lifecycle, the source's `state` (R30). -/
inductive RunState where
  | loading
  | running
  | paused
  | quit
  deriving DecidableEq, Repr

/-- The fault codes (R233). -/
inductive FaultCode where
  /-- Code 1, raised by 00EE at SP = 0. -/
  | stackUnderflow
  /-- Code 2, raised by 2NNN at SP = 12. -/
  | stackOverflow
  /-- Code 3, raised by EX9E and EXA1 at V[X] > 0x0F under the policy `fault`. -/
  | keyIndexRange
  deriving DecidableEq, Repr

/-- The record of a fault: code, address and word of the faulting instruction (R31). -/
structure FaultRecord where
  code : FaultCode
  addr : Word
  word : Word
  deriving DecidableEq, Repr

/-- An `Unimplemented(addr, word)` report (R32, R231). -/
structure Report where
  addr : Word
  word : Word
  deriving DecidableEq, Repr

/-- The state of one machine instance. Every field is named in 10_state.md but the first and the last. -/
structure State where
  /-- The parameters of this instance (R8). Not state: no operation changes them (R33; log 1). -/
  config : Config
  /-- V[0]..V[15]; V[15] is VF (R20, R21). -/
  v : Vector Byte 16
  /-- I (R22). -/
  i : Word
  /-- PC (R23). -/
  pc : Word
  /-- stack[0..11]; entries at SP and above stay as they were (R24). -/
  stack : Vector Word 12
  /-- SP, the number of entries in use, 0..12 (R24). -/
  sp : Fin 13
  /-- DT (R25). -/
  dt : Byte
  /-- ST (R25). -/
  st : Byte
  /-- disp, row-major: cell (x, y) at `y * DISP_W + x`, `true` lit (R26). -/
  display : List Bool
  /-- keys[0..15], `true` pressed (R27). -/
  keys : Vector Bool 16
  /-- kw_reg, the register X of an FX0A wait in progress (R28). -/
  kwReg : Option Nibble
  /-- kw_key, the latched key code (R28). -/
  kwKey : Option Nibble
  /-- memory (R50). -/
  mem : Memory
  /-- run (R30). -/
  run : RunState
  /-- fault (R31). -/
  fault : Option FaultRecord
  /-- reports, oldest first (R32). -/
  reports : List Report
  /-- MODEL'S OWN: how many bytes CXNN has drawn; the next draw is `Config.randomByte draws` (log 2). -/
  draws : Nat
  deriving DecidableEq, Repr

/-- A step never stops with a fault of the model: the spec describes the entry of each of its faults, so taking one is
a next state with the record set (R105, R232; log 4), and no other behaviour of the spec is a stop. The type is
therefore empty (safe: nothing is left out by it). -/
inductive Fault where
  deriving DecidableEq, Repr

/-- Why an instruction has no meaning. -/
inductive Refusal where
  /-- Raised by `exec` for an instruction not modelled yet; no arm does (safe). -/
  | notModelled (mnemonic : String)
  deriving DecidableEq, Repr

/-- Right after reset, that is, the creation of an instance with the default parameters (R35, R36, R270): `run` is
Loading, PC is `ENTRY`, memory lists nothing (font and zeros, `Memory.unlisted`), all else zero, false, none or empty
(R35, D14; log 6). `draws` is the model's own (log 2). -/
def State.reset : State where
  config := Config.default
  v := Vector.replicate 16 0x00#8
  i := 0x0000#16
  pc := 0x200#16
  stack := Vector.replicate 12 0x0000#16
  sp := 0
  dt := 0x00#8
  st := 0x00#8
  display := List.replicate 2048 false
  keys := Vector.replicate 16 false
  kwReg := none
  kwKey := none
  mem := []
  run := .loading
  fault := none
  reports := []
  draws := 0

end Sys2Proof.Machine
end

