-- ==== Sys2Proof/Machine/Flags.lean ====
section
/-! DEFINITION. The flag computations: what VF receives (10_state.md R21). Each works on the values before the
instruction and on exact integers. -/

namespace Sys2Proof.Machine

/-- A flag as the byte VF holds. -/
def flagByte (b : Bool) : Byte := if b then 0x01#8 else 0x00#8

/-- 8XY4: "the 9-bit sum exceeds 255" (R147). -/
def carryFlag (vx vy : Byte) : Bool := decide (255 < vx.toNat + vy.toNat)

/-- NOT borrow of `minuend - subtrahend` (R148, R150). -/
def noBorrowFlag (minuend subtrahend : Byte) : Bool := decide (subtrahend.toNat ≤ minuend.toNat)

/-- 8XY6: bit 0 of the source before the shift (R149). -/
def shiftedOutLow (src : Byte) : Bool := src.getLsbD 0

/-- 8XYE: bit 7 of the source before the shift (R151). -/
def shiftedOutHigh (src : Byte) : Bool := src.getLsbD 7

/-- FX1E: the exact sum, before truncation, exceeds 0xFFF (R171, D12). -/
def indexOverflow (i : Word) (vx : Byte) : Bool := decide (0xFFF < i.toNat + vx.toNat)

end Sys2Proof.Machine
end

