-- ==== Sys2Proof/Machine/Operands.lean ====
section
/-! DEFINITION. Operand forms: how a rule reads its operands and forms addresses (R11, R12, R73, R216). -/

namespace Sys2Proof.Machine

/-- `V[x]` (R11, R20). Every index names a register. -/
def State.reg (s : State) (x : Nibble) : Byte := s.v[x.toNat]'(x.isLt)

/-- The index of VF (R21). -/
def vfIndex : Nibble := 0xF#4

/-- VF (R21). -/
def State.vf (s : State) : Byte := s.reg vfIndex

/-- V[0..X], the registers FX55 stores, V[0] first (R174). -/
def State.regsUpTo (s : State) (x : Nibble) : List Byte := s.v.toList.take (x.toNat + 1)

/-- NNN where it is written to PC or I: `zext_16(NNN)` (R73). -/
def zextAddr (nnn : Addr12) : Word := nnn.setWidth 16

/-- A register value where it enters 16-bit arithmetic: `zext_16(v)` (R10). -/
def zextByte (b : Byte) : Word := b.setWidth 16

/-- `MemRead(addr, 1)`: the byte at `addr mod 4096` (R12, R51). -/
def State.memRead (s : State) (addr : Nat) : Byte := s.mem.read (addr % memSize)

/-- The `n` bytes at I, I + 1, … (R66), each address modulo 4096. -/
def State.bytesAtI (s : State) (n : Nat) : List Byte := (List.range n).map (fun r => s.memRead (s.i.toNat + r))

/-- The source of 8XY6 and 8XYE: V[Y], or V[X] under `QUIRK_SHIFT_READS_VY = false` (R149, R151). -/
def State.shiftSource (s : State) (x y : Nibble) : Byte := if s.config.quirkShiftReadsVY then s.reg y else s.reg x

/-- The register BNNN adds: V[X], or V[0] under `QUIRK_JUMP_OFFSET_VX = false` (R128). -/
def State.jumpOffset (s : State) (x : Nibble) : Byte := if s.config.quirkJumpOffsetVX then s.reg x else s.reg 0x0#4

/-- `key_index(v)` (R216). -/
def keyIndex (c : Config) (v : Byte) : Except FaultCode Nibble :=
  if v.toNat ≤ 0x0F then .ok (v.setWidth 4)
  else match c.keyIndexPolicy with
    | .fault => .error .keyIndexRange
    | .mask => .ok (v.setWidth 4)

/-- `keys[k]` (R27). -/
def State.keyPressed (s : State) (k : Nibble) : Bool := s.keys[k.toNat]'(k.isLt)

/-- "least such k" with `keys[k]`, if a key is pressed (R213, D11). -/
def State.lowestPressed (s : State) : Option Nibble :=
  (s.keys.toList.findIdx? (fun p => p)).map (BitVec.ofNat 4)

/-- The decimal digits of a byte: hundreds, tens, ones (R173). -/
def bcdDigits (v : Byte) : List Byte :=
  [BitVec.ofNat 8 (v.toNat / 100), BitVec.ofNat 8 (v.toNat / 10 % 10), BitVec.ofNat 8 (v.toNat % 10)]

/-- `disp[x][y]`, the element `y * DISP_W + x` of the row-major grid (R26). -/
def State.cell (s : State) (x y : Nat) : Bool := s.display.getD (y * s.config.dispW + x) false

/-- The column of DXYN's anchor: "the modulo applies once, to the anchor only" (R192). -/
def State.anchorX (s : State) (x : Nibble) : Nat := (s.reg x).toNat % s.config.dispW

/-- The row of DXYN's anchor (R192). -/
def State.anchorY (s : State) (y : Nibble) : Nat := (s.reg y).toNat % s.config.dispH

/-- "most significant bit leftmost": bit 7 - c of a sprite byte is its column c (R192). -/
def spriteBit (row : Byte) (c : Nat) : Bool := row.getLsbD (7 - c)

end Sys2Proof.Machine
end

