-- ==== Sys2Proof/Machine/Ops.lean ====
section
/-! DEFINITION. The named operations the meanings share: writing registers and memory, skipping, the call stack, taking
a fault, reporting an unrecognized word, and the fetch. -/

namespace Sys2Proof.Machine

/-- `V[x] <- b` (R11). -/
def State.setReg (s : State) (x : Nibble) (b : Byte) : State := { s with v := s.v.set x.toNat b x.isLt }

/-- `V[X] <- b`, then `V[F] <- f`: VF last (R140, D7; log 11). -/
def State.setRegThenVF (s : State) (x : Nibble) (b f : Byte) : State := (s.setReg x b).setReg vfIndex f

/-- `V[X] <- b`, then `V[F] <- 0` under `QUIRK_LOGIC_RESETS_VF` (R144, R145, R146). -/
def State.setLogic (s : State) (x : Nibble) (b : Byte) : State :=
  if s.config.quirkLogicResetsVF then s.setRegThenVF x b 0x00#8 else s.setReg x b

/-- `PC <- target` (R11). -/
def State.setPc (s : State) (target : Word) : State := { s with pc := target }

/-- `I <- w` (R11). -/
def State.setI (s : State) (w : Word) : State := { s with i := w }

/-- Store consecutive bytes at I, I + 1, …, each address modulo 4096 (R66). -/
def State.storeAtI (s : State) (bs : List Byte) : State := { s with mem := s.mem.storeBytes s.i.toNat bs }

/-- `I <- (I + X + 1) mod 2^16` under `QUIRK_MEM_INCREMENT_I` (R174, R175). -/
def State.advanceIndex (s : State) (x : Nibble) : State :=
  if s.config.quirkMemIncrementI then s.setI (BitVec.ofNat 16 (s.i.toNat + x.toNat + 1)) else s

/-- A skip: "`PC += 2` after the fetch has already advanced PC" (R15, R120). -/
def State.skipIf (s : State) (taken : Bool) : State := if taken then s.setPc (s.pc + 2#16) else s

/-- `PC <- (PC - 2) mod 2^16`: back to the instruction's own address (R213). -/
def State.rewind (s : State) : State := s.setPc (s.pc - 2#16)

/-- Push a return address; none when 12 entries are in use (R24, R123). -/
def State.push (s : State) (w : Word) : Option State :=
  if h : s.sp.val < 12 then
    some { s with stack := s.stack.set s.sp.val w h, sp := ⟨s.sp.val + 1, Nat.succ_lt_succ h⟩ }
  else none

/-- Pop a return address; none when the stack is empty. The popped entry is not cleared (R24, R121). -/
def State.pop (s : State) : Option (Word × State) :=
  if h : 0 < s.sp.val then
    some (s.stack[s.sp.val - 1]'(Nat.lt_of_lt_of_le (Nat.sub_lt h Nat.one_pos) (Nat.le_of_lt_succ s.sp.isLt)),
      { s with sp := ⟨s.sp.val - 1, Nat.lt_of_le_of_lt (Nat.sub_le _ _) s.sp.isLt⟩ })
  else none

/-- The number of a fault code (R233, D30). -/
def FaultCode.number : FaultCode → Nat
  | .stackUnderflow => 1
  | .stackOverflow => 2
  | .keyIndexRange => 3

/-- The number of the one report code, UNIMPLEMENTED (R231, D30). -/
def unimplementedCode : Nat := 0

/-- TAKING A FAULT, `raise Fault(code)` (R13, R105, R232): PC goes back to the instruction's own address `a` and `fault`
records (code, a, word); nothing else is saved and nothing else changes. `s` is the state right after the fetch (PC is
a + 2), so every write of the instruction is discarded. There is no return from a fault (R235). -/
def raiseFault (code : FaultCode) (word : Word) (s : State) : Host.Outcome State Fault Refusal :=
  .next { s with pc := s.pc - 2#16, fault := some ⟨code, s.pc - 2#16, word⟩ }

/-- The word at an address: two bytes, big-endian, each address modulo 4096 (R53, R101). -/
def State.wordAt (s : State) (a : Word) : Word := joinBytes (s.memRead a.toNat) (s.memRead (a.toNat + 1))

/-- The word the next Step fetches (R101). -/
def State.fetchWord (s : State) : Word := s.wordAt s.pc

/-- "`PC` advances by 2 as part of the fetch, before execution" (R101). -/
def State.advancePc (s : State) : State := s.setPc (s.pc + 2#16)

/-- An unrecognized word: report (a, w), no other effect, PC stays a + 2 (R103, R231). `s` is the state right after the
fetch. -/
def reportUnimplemented (word : Word) (s : State) : Host.Outcome State Fault Refusal :=
  .next { s with reports := s.reports ++ [⟨s.pc - 2#16, word⟩] }

/-- Step is enabled only when `run = Running` and `fault = none` (R100). -/
def State.stepEnabled (s : State) : Bool := s.run == .running && s.fault.isNone

/-- "In any other state Step is not accepted and changes nothing" (R100; log 3). -/
def stepNotAccepted (s : State) : Host.Outcome State Fault Refusal := .next s

end Sys2Proof.Machine
end

