-- ==== Sys2Proof/Machine/Alu.lean ====
section
/-! DEFINITION. Register arithmetic, logic and shifts (42_alu.md). In every meaning `s` is the state right after the
fetch. -/

namespace Sys2Proof.Machine

/-- 6XNN, load immediate (R141). -/
def execLdVxNn (x : Nibble) (nn : Byte) (s : State) : Host.Outcome State Fault Refusal := .next (s.setReg x nn)

/-- 7XNN, add immediate; no flag (R142). -/
def execAddVxNn (x : Nibble) (nn : Byte) (s : State) : Host.Outcome State Fault Refusal :=
  .next (s.setReg x (BitVec.ofNat 8 ((s.reg x).toNat + nn.toNat)))

/-- 8XY0, copy register (R143). -/
def execLdVxVy (x y : Nibble) (s : State) : Host.Outcome State Fault Refusal := .next (s.setReg x (s.reg y))

/-- 8XY1, bitwise OR (R144). -/
def execOrVxVy (x y : Nibble) (s : State) : Host.Outcome State Fault Refusal :=
  .next (s.setLogic x (s.reg x ||| s.reg y))

/-- 8XY2, bitwise AND (R145). -/
def execAndVxVy (x y : Nibble) (s : State) : Host.Outcome State Fault Refusal :=
  .next (s.setLogic x (s.reg x &&& s.reg y))

/-- 8XY3, bitwise XOR (R146). -/
def execXorVxVy (x y : Nibble) (s : State) : Host.Outcome State Fault Refusal :=
  .next (s.setLogic x (s.reg x ^^^ s.reg y))

/-- 8XY4, add registers with carry (R147). -/
def execAddVxVy (x y : Nibble) (s : State) : Host.Outcome State Fault Refusal :=
  .next (s.setRegThenVF x (BitVec.ofNat 8 ((s.reg x).toNat + (s.reg y).toNat))
    (flagByte (carryFlag (s.reg x) (s.reg y))))

/-- 8XY5, V[X] - V[Y] (R148). -/
def execSub (x y : Nibble) (s : State) : Host.Outcome State Fault Refusal :=
  .next (s.setRegThenVF x (s.reg x - s.reg y) (flagByte (noBorrowFlag (s.reg x) (s.reg y))))

/-- 8XY6, shift right by one (R149). -/
def execShr (x y : Nibble) (s : State) : Host.Outcome State Fault Refusal :=
  .next (s.setRegThenVF x (s.shiftSource x y >>> 1) (flagByte (shiftedOutLow (s.shiftSource x y))))

/-- 8XY7, V[Y] - V[X] (R150). -/
def execSubn (x y : Nibble) (s : State) : Host.Outcome State Fault Refusal :=
  .next (s.setRegThenVF x (s.reg y - s.reg x) (flagByte (noBorrowFlag (s.reg y) (s.reg x))))

/-- 8XYE, shift left by one (R151). -/
def execShl (x y : Nibble) (s : State) : Host.Outcome State Fault Refusal :=
  .next (s.setRegThenVF x (s.shiftSource x y <<< 1) (flagByte (shiftedOutHigh (s.shiftSource x y))))

/-- CXNN with the drawn byte `r` given: `V[X] <- r & NN`, and the draw is used up (R152). -/
def rndWith (r : Byte) (x : Nibble) (nn : Byte) (s : State) : State :=
  { s.setReg x (r &&& nn) with draws := s.draws + 1 }

/-- CXNN, random byte masked (R152): the draw is the free value `Config.randomByte`, a new one each time (log 2). -/
def execRnd (x : Nibble) (nn : Byte) (s : State) : Host.Outcome State Fault Refusal :=
  .next (rndWith (Config.randomByte s.draws) x nn s)

end Sys2Proof.Machine
end

