-- ==== Sys2Proof/Machine/ControlFlow.lean ====
section
/-! DEFINITION. Control flow (41_control_flow.md). In every meaning `s` is the state right after the fetch: PC is a + 2. -/

namespace Sys2Proof.Machine

/-- 00EE, return from subroutine (R121). -/
def execRet (s : State) : Host.Outcome State Fault Refusal :=
  match s.pop with
  | some (a, s') => .next (s'.setPc a)
  | none => raiseFault .stackUnderflow (encodeWord .ret) s

/-- 1NNN, jump (R122). -/
def execJp (nnn : Addr12) (s : State) : Host.Outcome State Fault Refusal := .next (s.setPc (zextAddr nnn))

/-- 2NNN, call subroutine: the pushed address is the advanced PC (R123). -/
def execCall (nnn : Addr12) (s : State) : Host.Outcome State Fault Refusal :=
  match s.push s.pc with
  | some s' => .next (s'.setPc (zextAddr nnn))
  | none => raiseFault .stackOverflow (encodeWord (.call nnn)) s

/-- 3XNN, skip if V[X] equals NN (R124). -/
def execSeVxNn (x : Nibble) (nn : Byte) (s : State) : Host.Outcome State Fault Refusal :=
  .next (s.skipIf (s.reg x == nn))

/-- 4XNN, skip if V[X] does not equal NN (R125). -/
def execSneVxNn (x : Nibble) (nn : Byte) (s : State) : Host.Outcome State Fault Refusal :=
  .next (s.skipIf (s.reg x != nn))

/-- 5XY0, skip if V[X] equals V[Y] (R126). -/
def execSeVxVy (x y : Nibble) (s : State) : Host.Outcome State Fault Refusal :=
  .next (s.skipIf (s.reg x == s.reg y))

/-- 9XY0, skip if V[X] does not equal V[Y] (R127). -/
def execSneVxVy (x y : Nibble) (s : State) : Host.Outcome State Fault Refusal :=
  .next (s.skipIf (s.reg x != s.reg y))

/-- BNNN, jump with register offset (R128). -/
def execJpVxNnn (x : Nibble) (nnn : Addr12) (s : State) : Host.Outcome State Fault Refusal :=
  .next (s.setPc (zextByte (s.jumpOffset x) + zextAddr nnn))

end Sys2Proof.Machine
end

