-- ==== Sys2Proof/Machine/Display.lean ====
section
/-! DEFINITION. Display instructions (44_display.md): clear and XOR sprite blit with collision. In every meaning `s` is
the state right after the fetch. -/

namespace Sys2Proof.Machine

/-- 00E0, clear the display: every cell false, VF untouched (R191). -/
def execCls (s : State) : Host.Outcome State Fault Refusal :=
  .next { s with display := s.display.map (fun _ => false) }

/-- The display during a draw: the cells, row-major, and whether a lit cell has been turned off so far. -/
structure Canvas where
  cells : List Bool
  collided : Bool
  deriving DecidableEq, Repr

/-- XOR a set sprite bit into the cell with this row-major index (R192). -/
def Canvas.toggle (d : Canvas) (idx : Nat) : Canvas where
  cells := d.cells.set idx (!d.cells.getD idx false)
  collided := d.collided || d.cells.getD idx false

/-- One sprite byte at row `y`, over the given sprite columns: stop once a column reaches `w` (R192). -/
def Canvas.blitRow (w x0 y : Nat) (row : Byte) : List Nat → Canvas → Canvas
  | [], d => d
  | c :: cs, d =>
    if w ≤ x0 + c then d
    else Canvas.blitRow w x0 y row cs (if spriteBit row c then d.toggle (y * w + (x0 + c)) else d)

/-- The sprite bytes from row `y` downward: stop once a row reaches `h` (R192). -/
def Canvas.blit (w h x0 : Nat) : Nat → List Byte → Canvas → Canvas
  | _, [], d => d
  | y, row :: rows, d =>
    if h ≤ y then d else Canvas.blit w h x0 (y + 1) rows (Canvas.blitRow w x0 y row (List.range 8) d)

/-- DXYN, draw sprite: anchor and rows are read first, VF is the collision flag (R192, D8; log 11). -/
def execDrw (x y n : Nibble) (s : State) : Host.Outcome State Fault Refusal :=
  let d := Canvas.blit s.config.dispW s.config.dispH (s.anchorX x) (s.anchorY y) (s.bytesAtI n.toNat)
    ⟨s.display, false⟩
  .next ({ s with display := d.cells }.setReg vfIndex (flagByte d.collided))

end Sys2Proof.Machine
end

