-- ==== Sys2Proof/Machine/IndexMemory.lean ====
section
/-! DEFINITION. Index register and memory instructions (43_index_memory.md). In every meaning `s` is the state right
after the fetch. -/

namespace Sys2Proof.Machine

/-- ANNN, load index (R170). -/
def execLdINnn (nnn : Addr12) (s : State) : Host.Outcome State Fault Refusal := .next (s.setI (zextAddr nnn))

/-- FX1E, add register to index; VF becomes 1 on overflow and is not written otherwise (R171). -/
def execAddIVx (x : Nibble) (s : State) : Host.Outcome State Fault Refusal :=
  let s' := s.setI (BitVec.ofNat 16 (s.i.toNat + (s.reg x).toNat))
  .next (if indexOverflow s.i (s.reg x) then s'.setReg vfIndex 0x01#8 else s')

/-- FX29, point index at font glyph: all of V[X], no nibble mask (R172). -/
def execLdFVx (x : Nibble) (s : State) : Host.Outcome State Fault Refusal :=
  .next (s.setI (BitVec.ofNat 16 ((s.reg x).toNat * 5)))

/-- FX33, store binary-coded decimal: hundreds, tens, ones at I, I + 1, I + 2 (R173). -/
def execLdBVx (x : Nibble) (s : State) : Host.Outcome State Fault Refusal :=
  .next (s.storeAtI (bcdDigits (s.reg x)))

/-- FX55, store V[0..X] at I, I + 1, … (R174). -/
def execLdMemIVx (x : Nibble) (s : State) : Host.Outcome State Fault Refusal :=
  .next ((s.storeAtI (s.regsUpTo x)).advanceIndex x)

/-- `V[j] <- t[j]`, `V[j+1] <- …` in rising order, from register j on (R175). -/
def State.setRegsFrom : State → Nat → List Byte → State
  | s, _, [] => s
  | s, j, b :: bs => State.setRegsFrom (s.setReg (BitVec.ofNat 4 j) b) (j + 1) bs

/-- FX65, load V[0..X] from I, I + 1, …: every byte is read before a register is written (R175). -/
def execLdVxMemI (x : Nibble) (s : State) : Host.Outcome State Fault Refusal :=
  .next ((s.setRegsFrom 0 (s.bytesAtI (x.toNat + 1))).advanceIndex x)

end Sys2Proof.Machine
end

