-- ==== Sys2Proof/Machine/InputTimer.lean ====
section
/-! DEFINITION. Key and timer instructions and the blocking key wait (45_input_timer.md). In every meaning `s` is the
state right after the fetch. -/

namespace Sys2Proof.Machine

/-- EX9E, skip if key V[X] is pressed (R210). -/
def execSkp (x : Nibble) (s : State) : Host.Outcome State Fault Refusal :=
  match keyIndex s.config (s.reg x) with
  | .ok k => .next (s.skipIf (s.keyPressed k))
  | .error code => raiseFault code (encodeWord (.skp x)) s

/-- EXA1, skip if key V[X] is not pressed (R211). -/
def execSknp (x : Nibble) (s : State) : Host.Outcome State Fault Refusal :=
  match keyIndex s.config (s.reg x) with
  | .ok k => .next (s.skipIf (!s.keyPressed k))
  | .error code => raiseFault code (encodeWord (.sknp x)) s

/-- FX07, read delay timer (R212). -/
def execLdVxDt (x : Nibble) (s : State) : Host.Outcome State Fault Refusal := .next (s.setReg x s.dt)

/-- FX0A, wait for a key press and release (R213): the key-wait state machine of R28. -/
def execLdVxK (x : Nibble) (s : State) : Host.Outcome State Fault Refusal :=
  match s.kwKey with
  | none => .next { s with kwReg := some x, kwKey := s.lowestPressed }.rewind
  | some k =>
    if s.keyPressed k then .next s.rewind
    else .next { s.setReg x (k.setWidth 8) with kwReg := none, kwKey := none }

/-- FX15, set delay timer (R214). -/
def execLdDtVx (x : Nibble) (s : State) : Host.Outcome State Fault Refusal := .next { s with dt := s.reg x }

/-- FX18, set sound timer (R215). -/
def execLdStVx (x : Nibble) (s : State) : Host.Outcome State Fault Refusal := .next { s with st := s.reg x }

end Sys2Proof.Machine
end

