-- ==== Sys2Proof/Machine/Step.lean ====
section
/-! DEFINITION. Step, the single "execute one instruction" entry point (40_execution_cycle.md R100 to R103). -/

namespace Sys2Proof.Machine

/-- One Step: not accepted unless Running without a fault (R100); else fetch the word at PC and advance PC by 2 (R101),
decode, and run the instruction (R102) or report the word (R103). -/
def step (s : State) : Host.Outcome State Fault Refusal :=
  if s.stepEnabled then
    match decodeWord s.fetchWord with
    | .ok i => exec i s.advancePc
    | .error _ => reportUnimplemented s.fetchWord s.advancePc
  else stepNotAccepted s

/-- `s` with the given instruction word at PC, and what else a fetch needs: Running, no fault. It stands for the host's
Load (log 18). -/
def State.withFetchWord (s : State) (nbits w : Nat) : State :=
  { s with mem := s.mem.storeBytes s.pc.toNat (tableWordBytes nbits w), run := .running, fault := none }

end Sys2Proof.Machine
end

