-- ==== Sys2Proof/Machine/HostOps.lean ====
section
/-! DEFINITION. What the host does to an instance between Steps (60_exceptions.md R240 to R251) and its creation
(70_reset_and_hazards.md R270). Each is one atomic function of the state (R248). -/

namespace Sys2Proof.Machine

/-- Why no instance is created. -/
inductive CreateRefusal where
  /-- `DISP_W` or `DISP_H` is 0 (R8, D27). -/
  | displaySize
  /-- `ENTRY` is outside 0x200..0xFFF (R8, D22). -/
  | entryRange
  deriving DecidableEq, Repr

/-- The state of R35 for the given parameters: `FONT` is written to memory[0x000..0x04F] (R57). -/
def State.created (c : Config) : State where
  config := c
  v := Vector.replicate 16 0x00#8
  i := 0x0000#16
  pc := c.entry
  stack := Vector.replicate 12 0x0000#16
  sp := 0
  dt := 0x00#8
  st := 0x00#8
  display := List.replicate (c.dispW * c.dispH) false
  keys := Vector.replicate 16 false
  kwReg := none
  kwKey := none
  mem := Memory.storeBytes [] 0 c.font.toList
  run := .loading
  fault := none
  reports := []
  draws := 0

/-- Creation of an instance (R270); a configuration outside the ranges of R8 is refused (D22, D27; log 19). -/
def State.create (c : Config) : Except CreateRefusal State :=
  if c.dispW = 0 ∨ c.dispH = 0 then .error .displaySize
  else if c.entry.toNat < 0x200 ∨ 0xFFF < c.entry.toNat then .error .entryRange
  else .ok (State.created c)

/-- What Load answers (R246). -/
inductive LoadResult where
  /-- The image is placed and the machine is Running. -/
  | loaded (s : State)
  /-- LOAD_OVERSIZE: the image does not fit; nothing changes. -/
  | oversize
  /-- The machine is not Loading; nothing changes. -/
  | notAccepted
  deriving DecidableEq, Repr

/-- Load (R246): the image is placed verbatim from `ENTRY` on and `run` becomes Running; nothing else changes. -/
def loadProgram (image : List Byte) (s : State) : LoadResult :=
  if s.run = .loading then
    if memSize - s.config.entry.toNat < image.length then .oversize
    else .loaded { s with mem := s.mem.storeBytes s.config.entry.toNat image, run := .running }
  else .notAccepted

/-- "decremented by exactly 1, saturating at 0" (R240). -/
def decTimer (t : Byte) : Byte := if t = 0x00#8 then 0x00#8 else t - 1#8

/-- Tick, where it is accepted (R240). -/
def tick (s : State) : State := { s with dt := decTimer s.dt, st := decTimer s.st }

/-- KeyEvent, where it is accepted: `keys[k] <- pressed` (R241). -/
def keyEvent (k : Nibble) (pressed : Bool) (s : State) : State := { s with keys := s.keys.set k.toNat pressed k.isLt }

/-- `run <- r`, the whole effect of Pause, Resume and Quit (R242, R243, R244). -/
def State.setRun (s : State) (r : RunState) : State := { s with run := r }

/-- The read-only view of the render sink: width, height and the cells in row-major order (R250). -/
structure RenderView where
  width : Nat
  height : Nat
  cells : List Bool
  deriving DecidableEq, Repr

/-- What the render sink reads (R250); reading changes nothing. -/
def State.renderView (s : State) : RenderView := ⟨s.config.dispW, s.config.dispH, s.display⟩

end Sys2Proof.Machine
end

