-- ==== Sys2Proof/Machine/System.lean ====
section
/-! DEFINITION. The interface of the block: atomic operations, applied in any order and number (00_scope.md R6,
60_exceptions.md R245, R248). -/

namespace Sys2Proof.Machine

/-- The operations of R6. A key code is any number the host gives; only 0x0..0xF is accepted (R241). -/
inductive Operation where
  | step
  | load (image : List Byte)
  | tick
  | keyEvent (code : Nat) (pressed : Bool)
  | pause
  | resume
  | quit
  | inspect
  deriving DecidableEq, Repr

/-- Which operations a state accepts: the table of R245, with the key codes of R241 and the size check of R246. -/
def accepts (op : Operation) (s : State) : Bool :=
  match op with
  | .step => s.stepEnabled
  | .load image => s.run == .loading && decide (image.length ≤ memSize - s.config.entry.toNat)
  | .tick => s.run != .quit
  | .keyEvent code _ => s.run != .quit && decide (code < 16)
  | .pause => s.run == .running
  | .resume => s.run == .paused
  | .quit => s.run != .quit
  | .inspect => true

/-- One operation: "an operation not accepted changes nothing" (R245). -/
def perform (op : Operation) (s : State) : Host.Outcome State Fault Refusal :=
  match op with
  | .step => step s
  | .load image =>
    match loadProgram image s with
    | .loaded s' => .next s'
    | .oversize => .next s
    | .notAccepted => .next s
  | .tick => .next (if accepts .tick s then tick s else s)
  | .keyEvent code p =>
    .next (if accepts (.keyEvent code p) s then keyEvent (BitVec.ofNat 4 code) p s else s)
  | .pause => .next (if accepts .pause s then s.setRun .paused else s)
  | .resume => .next (if accepts .resume s then s.setRun .running else s)
  | .quit => .next (if accepts .quit s then s.setRun .quit else s)
  | .inspect => .next s

/-- A schedule: operations one after the other (R248), stopping at the first fault or refusal. -/
def performAll : List Operation → State → Host.Outcome State Fault Refusal
  | [], s => .next s
  | op :: ops, s =>
    match perform op s with
    | .next s' => performAll ops s'
    | .fault r => .fault r
    | .refused r => .refused r

end Sys2Proof.Machine
end

