-- ==== Sys2Proof/Safety.lean ====
section
/-! DEFINITION. The terms claims use: the parts of the state and what leaves one unchanged, the opcode table's key of an
instruction, and the invariant of a machine instance. -/

namespace Sys2Proof

/-- The general register an instruction names as its destination, as an ordinary destination or for its result; FX65
has a range of them and is not among these (R21, R141 to R152, R212, R213). -/
def Instr.destReg : Instr → Option Nibble
  | .ldVxNn x _ | .addVxNn x _ | .ldVxVy x _ | .orVxVy x _ | .andVxVy x _ | .xorVxVy x _ | .addVxVy x _ | .sub x _
  | .shr x _ | .subn x _ | .shl x _ | .rnd x _ | .ldVxDt x | .ldVxK x => some x
  | .cls | .ret | .jp _ | .call _ | .seVxNn _ _ | .sneVxNn _ _ | .seVxVy _ _ | .sneVxVy _ _ | .ldINnn _
  | .jpVxNnn _ _ | .drw _ _ _ | .skp _ | .sknp _ | .ldDtVx _ | .ldStVx _ | .addIVx _ | .ldFVx _ | .ldBVx _
  | .ldMemIVx _ | .ldVxMemI _ => none

/-- The instructions that write VF as a side effect: the table of R21. -/
def Instr.writesVF : Instr → Bool
  | .orVxVy _ _ | .andVxVy _ _ | .xorVxVy _ _ | .addVxVy _ _ | .sub _ _ | .shr _ _ | .subn _ _ | .shl _ _
  | .drw _ _ _ | .addIVx _ => true
  | .cls | .ret | .jp _ | .call _ | .seVxNn _ _ | .sneVxNn _ _ | .seVxVy _ _ | .sneVxVy _ _ | .ldVxNn _ _
  | .addVxNn _ _ | .ldVxVy _ _ | .ldINnn _ | .jpVxNnn _ _ | .rnd _ _ | .skp _ | .sknp _ | .ldVxDt _ | .ldVxK _
  | .ldDtVx _ | .ldStVx _ | .ldFVx _ | .ldBVx _ | .ldMemIVx _ | .ldVxMemI _ => false

/-- The instructions that read the key vector: EX9E, EXA1 and FX0A (R27). -/
def Instr.readsKeys : Instr → Bool
  | .skp _ | .sknp _ | .ldVxK _ => true
  | .cls | .ret | .jp _ | .call _ | .seVxNn _ _ | .sneVxNn _ _ | .seVxVy _ _ | .sneVxVy _ _ | .ldVxNn _ _
  | .addVxNn _ _ | .ldVxVy _ _ | .orVxVy _ _ | .andVxVy _ _ | .xorVxVy _ _ | .addVxVy _ _ | .sub _ _ | .shr _ _
  | .subn _ _ | .shl _ _ | .ldINnn _ | .jpVxNnn _ _ | .rnd _ _ | .drw _ _ _ | .ldVxDt _ | .ldDtVx _ | .ldStVx _
  | .addIVx _ | .ldFVx _ | .ldBVx _ | .ldMemIVx _ | .ldVxMemI _ => false

end Sys2Proof

namespace Sys2Proof.Machine

/-- The parts of the state a frame speaks of; together they are every field of `State`. -/
inductive Part where
  | config
  | regs
  | index
  | pc
  | stack
  | delayTimer
  | soundTimer
  | display
  | keys
  | keyWait
  | memory
  | lifecycle
  | faultRecord
  | reports
  | draws
  deriving DecidableEq, Repr

/-- A part holds after what it held before. Memory is compared byte by byte, through `memRead`. -/
def Unchanged : Part → State → State → Prop
  | .config, s, t => t.config = s.config
  | .regs, s, t => ∀ z, t.reg z = s.reg z
  | .index, s, t => t.i = s.i
  | .pc, s, t => t.pc = s.pc
  | .stack, s, t => t.stack = s.stack ∧ t.sp = s.sp
  | .delayTimer, s, t => t.dt = s.dt
  | .soundTimer, s, t => t.st = s.st
  | .display, s, t => t.display = s.display
  | .keys, s, t => t.keys = s.keys
  | .keyWait, s, t => t.kwReg = s.kwReg ∧ t.kwKey = s.kwKey
  | .memory, s, t => ∀ a, t.memRead a = s.memRead a
  | .lifecycle, s, t => t.run = s.run
  | .faultRecord, s, t => t.fault = s.fault
  | .reports, s, t => t.reports = s.reports
  | .draws, s, t => t.draws = s.draws

/-- A FRAME: every part is unchanged but those listed. -/
def FrameExcept (ps : List Part) (s t : State) : Prop := ∀ p, p ∉ ps → Unchanged p s t

/-- Every general register is unchanged but those listed. -/
def RegsExcept (xs : List Nibble) (s t : State) : Prop := ∀ z, z ∉ xs → t.reg z = s.reg z

/-- The `n` addresses a store at I writes, each modulo 4096: I, I + 1, … (R66). -/
def State.storedAt (s : State) (n : Nat) : List Nat := (List.range n).map (fun k => (s.i.toNat + k) % memSize)

/-- Every byte of memory outside the listed addresses reads as before. -/
def MemExcept (addrs : List Nat) (s t : State) : Prop :=
  ∀ a, a % memSize ∉ addrs → t.memRead a = s.memRead a

/-- Whether DXYN's sprite has a set bit at display cell (cx, cy): sprite row `cy - y0`, most significant bit leftmost,
with the anchor taken modulo the display size once (R192). -/
def State.spriteAt (s : State) (x y n : Nibble) (cx cy : Nat) : Bool :=
  let x0 := (s.reg x).toNat % s.config.dispW
  let y0 := (s.reg y).toNat % s.config.dispH
  decide (x0 ≤ cx ∧ cx < x0 + 8 ∧ y0 ≤ cy ∧ cy < y0 + n.toNat) &&
    (s.memRead (s.i.toNat + (cy - y0))).getLsbD (7 - (cx - x0))

/-- What a fault code says of the faulted machine: the instruction that raised it and its condition (R233). -/
def FaultRecord.Cause (f : FaultRecord) (s : State) : Prop :=
  match f.code with
  | .stackUnderflow => decodeWord f.word = .ok .ret ∧ s.sp.val = 0
  | .stackOverflow => ∃ nnn, decodeWord f.word = .ok (.call nnn) ∧ s.sp.val = 12
  | .keyIndexRange =>
    ∃ x, (decodeWord f.word = .ok (.skp x) ∨ decodeWord f.word = .ok (.sknp x)) ∧
      0x0F < (s.reg x).toNat ∧ s.config.keyIndexPolicy = .fault

/-- THE INVARIANT of a machine instance: what holds at creation and what every operation keeps. -/
structure State.Inv (s : State) : Prop where
  /-- The configuration is one an instance is created with (R8). -/
  configValid : s.config.valid = true
  /-- Memory is in canonical form, inside 0x000..0xFFF (R50). -/
  memWf : s.mem.wf = true
  /-- The display has DISP_W x DISP_H cells (R26). -/
  displaySize : s.display.length = s.config.dispW * s.config.dispH
  /-- The key wait is IDLE, WAIT_PRESS or WAIT_RELEASE (R28). -/
  keyWaitLegal : s.kwKey.isSome → s.kwReg.isSome
  /-- While a wait is in progress the word at PC is its FX0A (R213). -/
  keyWaitWord : ∀ x, s.kwReg = some x → decodeWord s.fetchWord = .ok (.ldVxK x)
  /-- A wait is in progress only after the program was loaded (R100). -/
  keyWaitStarted : s.kwReg.isSome → s.run ≠ .loading
  /-- A fault is recorded only after the program was loaded (R100). -/
  faultStarted : s.fault.isSome → s.run ≠ .loading
  /-- PC is left at the faulting instruction, whose word is the recorded one (R232). -/
  faultAtPc : ∀ f, s.fault = some f → f.addr = s.pc ∧ f.word = s.fetchWord
  /-- A recorded fault has the cause its code says (R233). -/
  faultCause : ∀ f, s.fault = some f → f.Cause s
  /-- Every report is of an unrecognized word (R231). -/
  reportsUnrecognized : ∀ r ∈ s.reports, decodeWord r.word = .error (.unrecognized r.word)

end Sys2Proof.Machine
end

