-- ==== Sys2Proof/Certificates/Slice0/Obligations.lean ====
section
/-! DEFINITION. The statements for the provers, in the order of OBLIGATIONS.json. In every statement about `exec`, `s` is
the state right after the fetch, whose PC is the instruction's address a plus 2 (40_execution_cycle.md R106). -/

open Sys2Proof Sys2Proof.Machine

/-! Encoding (30_encoding.md) -/

/-- Words written out from the encodings of R71 and R75, at least one for each family. -/
def Obligations.WrittenWordsDecode : Prop :=
  decodeWord 0b0000000011100000#16 = .ok .cls ∧
  decodeWord 0b0000000011101110#16 = .ok .ret ∧
  decodeWord 0b0001101010111100#16 = .ok (.jp 0xABC) ∧
  decodeWord 0b0010010000000001#16 = .ok (.call 0x401) ∧
  decodeWord 0b0011101001000010#16 = .ok (.seVxNn 0xA 0x42) ∧
  decodeWord 0b1000000100100110#16 = .ok (.shr 0x1 0x2) ∧
  decodeWord 0b1011001000001100#16 = .ok (.jpVxNnn 0x2 0x20C) ∧
  decodeWord 0b1101111100100101#16 = .ok (.drw 0xF 0x2 0x5) ∧
  decodeWord 0b1110001110011110#16 = .ok (.skp 0x3) ∧
  decodeWord 0b1111001001100101#16 = .ok (.ldVxMemI 0x2) ∧
  decodeWord 0b0101000100100001#16 = .error (.unrecognized 0x5121)

/-- Decoding the bytes of a well-formed instruction gives it back, whatever bytes follow. -/
def Obligations.DecodeOfEncodeIsInstruction : Prop :=
  ∀ (i : Instr) (rest : List Byte), i.wellFormed = true → decodeBytes (encode i ++ rest) = .ok (i, rest)

/-- A word that decodes is the word of the instruction it decodes to, and that instruction is well-formed: no bit of a
recognized word is dropped. -/
def Obligations.EncodeOfDecodeIsWord : Prop :=
  ∀ (w : Word) (i : Instr), decodeWord w = .ok i → i.wellFormed = true ∧ encodeWord i = w

/-- R76: the table has 34 rows; either exactly one row's match and mask select a word, and the word is that
instruction with the word's fields, or none does, and the word is unrecognized. -/
def Obligations.DecodeFollowsOpcodeTable : Prop :=
  opcodeTable.length = 34 ∧
  ∀ w : Word,
    match opcodeTable.filter (fun r => r.selects w) with
    | [r] => decodeWord w = .ok (r.build (fields w))
    | [] => decodeWord w = .error (.unrecognized w)
    | _ => False

/-- The unrecognized words are exactly those of the table of R77 (strict matching is the spec's decision D9; log 12). -/
def Obligations.UnrecognizedWordsAreExactly : Prop :=
  ∀ w : Word, decodeWord w = .error (.unrecognized w) ↔
    ((fields w).op = 0x0#4 ∧ w ≠ 0x00E0#16 ∧ w ≠ 0x00EE#16) ∨
    ((fields w).op = 0x5#4 ∧ (fields w).n ≠ 0x0#4) ∨
    ((fields w).op = 0x8#4 ∧ 8 ≤ (fields w).n.toNat ∧ (fields w).n ≠ 0xE#4) ∨
    ((fields w).op = 0x9#4 ∧ (fields w).n ≠ 0x0#4) ∨
    ((fields w).op = 0xE#4 ∧ (fields w).nn ∉ [0x9E#8, 0xA1#8]) ∨
    ((fields w).op = 0xF#4 ∧
      (fields w).nn ∉ [0x07#8, 0x0A#8, 0x15#8, 0x18#8, 0x1E#8, 0x29#8, 0x33#8, 0x55#8, 0x65#8])

/-! The execution cycle (40_execution_cycle.md) -/

/-- A Step of an enabled machine runs the instruction its two bytes at PC decode to, on the state whose PC is past
them. (Addresses modulo 4096, PC modulo 2^16: the spec's decisions D1, D2; logs 9, 10.) -/
def Obligations.StepRunsFetchedInstruction : Prop :=
  ∀ (s : State) (i : Instr) (rest : List Byte), s.run = .running → s.fault = none →
    decodeBytes [s.memRead s.pc.toNat, s.memRead (s.pc.toNat + 1)] = .ok (i, rest) →
    step s = exec i { s with pc := s.pc + 2#16 }

/-- A Step of an enabled machine on an unrecognized word appends the report (a, w), leaves PC at a + 2 and changes
nothing else (the form of the report is the spec's decision D23; log 21). -/
def Obligations.UnrecognizedWordIsReportedNoOp : Prop :=
  ∀ (s : State) (e : DecodeError), s.run = .running → s.fault = none → decodeWord s.fetchWord = .error e →
    step s = .next { s with pc := s.pc + 2#16, reports := s.reports ++ [⟨s.pc, s.fetchWord⟩] }

/-- A Step in any state but Running without a fault changes nothing (the spec's decisions D6, D17; that it is a next
state is log 3). -/
def Obligations.StepNotAcceptedChangesNothing : Prop :=
  ∀ s : State, s.run ≠ .running ∨ s.fault ≠ none → step s = .next s

/-- No instruction, and so no Step, stops the model: every one answers a next state. That taking a fault is a next state
is log 4; that a Step of a machine not Running, or faulted, is answered as a next state is the model's choice, log 3. -/
def Obligations.EveryInstructionAndStepAnswersNext : Prop :=
  (∀ (i : Instr) (s : State), ∃ t, exec i s = .next t) ∧ ∀ s : State, ∃ t, step s = .next t

/-- Seen from the instruction's own address a, a taken skip lands at a + 4 and one not taken at a + 2; 2NNN pushes a + 2
and 00EE returns to the address pushed (70_reset_and_hazards.md R274). The sums wrap modulo 2^16 by the spec's decision
D2 (log 10); which register BNNN adds under each setting of its quirk is the spec's D24 with R128 (log 16, PRESUMED). A
key number above 0x0F under the policy `mask` is left to SkipOnKey. -/
def Obligations.ControlFlowWorksFromAdvancedPc : Prop :=
  ∀ (s t : State) (i : Instr), s.run = .running → s.fault = none → decodeWord s.fetchWord = .ok i → step s = .next t →
    (∀ x nn, i = .seVxNn x nn → t.pc = if s.reg x = nn then s.pc + 4#16 else s.pc + 2#16) ∧
    (∀ x nn, i = .sneVxNn x nn → t.pc = if s.reg x = nn then s.pc + 2#16 else s.pc + 4#16) ∧
    (∀ x y, i = .seVxVy x y → t.pc = if s.reg x = s.reg y then s.pc + 4#16 else s.pc + 2#16) ∧
    (∀ x y, i = .sneVxVy x y → t.pc = if s.reg x = s.reg y then s.pc + 2#16 else s.pc + 4#16) ∧
    (∀ x, i = .skp x → (s.reg x).toNat ≤ 0x0F →
      t.pc = if s.keyPressed ((s.reg x).setWidth 4) then s.pc + 4#16 else s.pc + 2#16) ∧
    (∀ x, i = .sknp x → (s.reg x).toNat ≤ 0x0F →
      t.pc = if s.keyPressed ((s.reg x).setWidth 4) then s.pc + 2#16 else s.pc + 4#16) ∧
    (∀ nnn, i = .jp nnn → t.pc = nnn.setWidth 16) ∧
    (∀ x nnn, i = .jpVxNnn x nnn → t.pc = (s.jumpOffset x).setWidth 16 + nnn.setWidth 16) ∧
    (∀ nnn, i = .call nnn → ∀ h : s.sp.val < 12, t.stack[s.sp.val] = s.pc + 2#16 ∧ t.pc = nnn.setWidth 16) ∧
    (i = .ret → ∀ (k : Nat) (h : k < 12), s.sp.val = k + 1 → t.pc = s.stack[k])

/-- A Step that records a fault has no other effect: the record holds the instruction's own address, where PC is
left, and the word fetched there, and its code names the cause (the spec's decisions D4, D5, D6, D10; log 4). -/
def Obligations.FaultIsPreciseAndRecordsInstruction : Prop :=
  ∀ (s t : State) (f : FaultRecord), s.run = .running → s.fault = none → step s = .next t → t.fault = some f →
    t = { s with fault := some f } ∧ f.addr = s.pc ∧ f.word = s.fetchWord ∧ f.Cause s

/-! Control flow (41_control_flow.md) -/

/-- R122, 1NNN. -/
def Obligations.JumpLoadsTarget : Prop :=
  ∀ (nnn : Addr12) (s : State),
    decodeWord (0x1#4 ++ nnn) = .ok (.jp nnn) ∧ exec (.jp nnn) s = .next { s with pc := nnn.setWidth 16 }

/-- 2NNN with room on the stack: the advanced PC is pushed (R123; the stack pointer's form is the spec's D32). -/
def Obligations.CallPushesAdvancedPc : Prop :=
  ∀ (nnn : Addr12) (s : State) (h : s.sp.val < 12),
    decodeWord (0x2#4 ++ nnn) = .ok (.call nnn) ∧
    ∃ t, exec (.call nnn) s = .next t ∧ t.pc = nnn.setWidth 16 ∧ t.sp.val = s.sp.val + 1 ∧
      t.stack[s.sp.val] = s.pc ∧ (∀ (j : Nat) (hj : j < 12), j ≠ s.sp.val → t.stack[j] = s.stack[j]) ∧
      FrameExcept [.pc, .stack] s t

/-- 2NNN with 12 entries in use takes STACK_OVERFLOW (the spec's decision D5; log 4). -/
def Obligations.CallOnFullStackFaults : Prop :=
  ∀ (nnn : Addr12) (s : State), s.sp.val = 12 →
    exec (.call nnn) s =
      .next { s with pc := s.pc - 2#16, fault := some ⟨.stackOverflow, s.pc - 2#16, 0x2#4 ++ nnn⟩ }

/-- 00EE with an entry on the stack: PC is the popped address and the entry is not cleared (R121). -/
def Obligations.ReturnPopsAddress : Prop :=
  ∀ (s : State) (k : Nat) (hk : k < 12), s.sp.val = k + 1 →
    decodeWord 0x00EE#16 = .ok .ret ∧
    ∃ t, exec .ret s = .next t ∧ t.pc = s.stack[k] ∧ t.sp.val = k ∧ t.stack = s.stack ∧
      FrameExcept [.pc, .stack] s t

/-- 00EE with an empty stack takes STACK_UNDERFLOW (the spec's decision D4, the source's recommendation; log 4). -/
def Obligations.ReturnOnEmptyStackFaults : Prop :=
  ∀ s : State, s.sp.val = 0 →
    exec .ret s = .next { s with pc := s.pc - 2#16, fault := some ⟨.stackUnderflow, s.pc - 2#16, 0x00EE#16⟩ }

/-- A call with room on the stack, then any run that leaves the stack alone, then a return: PC is back at the
instruction after the call and SP is as before (R123: "so 00EE resumes after the call"). -/
def Obligations.ReturnUndoesCall : Prop :=
  ∀ (nnn : Addr12) (s t u : State), s.sp.val < 12 → exec (.call nnn) s = .next t → u.stack = t.stack → u.sp = t.sp →
    ∃ r, exec .ret u = .next r ∧ r.pc = s.pc ∧ r.sp = s.sp

/-- R124 and R125, 3XNN and 4XNN. -/
def Obligations.SkipOnImmediate : Prop :=
  ∀ (x : Nibble) (nn : Byte) (s : State),
    decodeWord (0x3#4 ++ x ++ nn) = .ok (.seVxNn x nn) ∧ decodeWord (0x4#4 ++ x ++ nn) = .ok (.sneVxNn x nn) ∧
    exec (.seVxNn x nn) s = .next (if s.reg x = nn then { s with pc := s.pc + 2#16 } else s) ∧
    exec (.sneVxNn x nn) s = .next (if s.reg x = nn then s else { s with pc := s.pc + 2#16 })

/-- 5XY0 and 9XY0 (R126, R127; that the low nibble must be 0 is the spec's decision D9, log 12). -/
def Obligations.SkipOnRegisters : Prop :=
  ∀ (x y : Nibble) (s : State),
    decodeWord (0x5#4 ++ x ++ y ++ 0x0#4) = .ok (.seVxVy x y) ∧
    decodeWord (0x9#4 ++ x ++ y ++ 0x0#4) = .ok (.sneVxVy x y) ∧
    exec (.seVxVy x y) s = .next (if s.reg x = s.reg y then { s with pc := s.pc + 2#16 } else s) ∧
    exec (.sneVxVy x y) s = .next (if s.reg x = s.reg y then s else { s with pc := s.pc + 2#16 })

/-- BNNN under both settings of its quirk; the target is at most 0x10FE, so nothing wraps (R128; the toggle is the
spec's D24, log 16). -/
def Obligations.JumpWithRegisterOffset : Prop :=
  ∀ (x : Nibble) (nnn : Addr12) (s : State),
    decodeWord (0xB#4 ++ nnn) = .ok (.jpVxNnn (nnn.extractLsb' 8 4) nnn) ∧
    ∃ t, exec (.jpVxNnn x nnn) s = .next t ∧
      t.pc.toNat = (if s.config.quirkJumpOffsetVX then (s.reg x).toNat else (s.reg 0x0#4).toNat) + nnn.toNat ∧
      FrameExcept [.pc] s t

/-! Arithmetic and logic (42_alu.md) -/

/-- R141, R142 and R143: 6XNN, 7XNN and 8XY0. -/
def Obligations.LoadAndAddImmediateAndCopy : Prop :=
  ∀ (x y : Nibble) (nn : Byte) (s : State),
    (decodeWord (0x6#4 ++ x ++ nn) = .ok (.ldVxNn x nn) ∧
      ∃ t, exec (.ldVxNn x nn) s = .next t ∧ t.reg x = nn ∧ RegsExcept [x] s t ∧ FrameExcept [.regs] s t) ∧
    (decodeWord (0x7#4 ++ x ++ nn) = .ok (.addVxNn x nn) ∧
      ∃ t, exec (.addVxNn x nn) s = .next t ∧ (t.reg x).toNat = ((s.reg x).toNat + nn.toNat) % 256 ∧
        RegsExcept [x] s t ∧ FrameExcept [.regs] s t) ∧
    (decodeWord (0x8#4 ++ x ++ y ++ 0x0#4) = .ok (.ldVxVy x y) ∧
      ∃ t, exec (.ldVxVy x y) s = .next t ∧ t.reg x = s.reg y ∧ RegsExcept [x] s t ∧ FrameExcept [.regs] s t)

/-- 8XY1, 8XY2 and 8XY3 under both settings of their quirk; under the reference setting VF is 0, whatever X is (the
toggle is the spec's D24, the order of the writes its D7; logs 16, 11). -/
def Obligations.LogicResetsVF : Prop :=
  ∀ (x y : Nibble) (s : State),
    (∃ t, exec (.orVxVy x y) s = .next t ∧ FrameExcept [.regs] s t ∧
      ∀ z, t.reg z = if s.config.quirkLogicResetsVF ∧ z = 0xF#4 then 0x00#8
        else if z = x then s.reg x ||| s.reg y else s.reg z) ∧
    (∃ t, exec (.andVxVy x y) s = .next t ∧ FrameExcept [.regs] s t ∧
      ∀ z, t.reg z = if s.config.quirkLogicResetsVF ∧ z = 0xF#4 then 0x00#8
        else if z = x then s.reg x &&& s.reg y else s.reg z) ∧
    (∃ t, exec (.xorVxVy x y) s = .next t ∧ FrameExcept [.regs] s t ∧
      ∀ z, t.reg z = if s.config.quirkLogicResetsVF ∧ z = 0xF#4 then 0x00#8
        else if z = x then s.reg x ^^^ s.reg y else s.reg z)

/-- 8XY4: the sum modulo 256 and the carry; with X = F, VF is the carry (the spec's decision D7; log 11). -/
def Obligations.AddSetsCarry : Prop :=
  ∀ (x y : Nibble) (s : State),
    ∃ t, exec (.addVxVy x y) s = .next t ∧
      t.reg 0xF#4 = (if 255 < (s.reg x).toNat + (s.reg y).toNat then 0x01#8 else 0x00#8) ∧
      (x ≠ 0xF#4 → (t.reg x).toNat = ((s.reg x).toNat + (s.reg y).toNat) % 256) ∧
      RegsExcept [x, 0xF#4] s t ∧ FrameExcept [.regs] s t

/-- 8XY5 and 8XY7: the difference modulo 256 and NOT borrow; with X = F, VF is the flag (the spec's decision D7;
log 11). -/
def Obligations.SubtractSetsNotBorrow : Prop :=
  ∀ (x y : Nibble) (s : State),
    (∃ t, exec (.sub x y) s = .next t ∧
      t.reg 0xF#4 = (if (s.reg y).toNat ≤ (s.reg x).toNat then 0x01#8 else 0x00#8) ∧
      (x ≠ 0xF#4 → (t.reg x).toNat = ((s.reg x).toNat + 256 - (s.reg y).toNat) % 256) ∧
      RegsExcept [x, 0xF#4] s t ∧ FrameExcept [.regs] s t) ∧
    (∃ t, exec (.subn x y) s = .next t ∧
      t.reg 0xF#4 = (if (s.reg x).toNat ≤ (s.reg y).toNat then 0x01#8 else 0x00#8) ∧
      (x ≠ 0xF#4 → (t.reg x).toNat = ((s.reg y).toNat + 256 - (s.reg x).toNat) % 256) ∧
      RegsExcept [x, 0xF#4] s t ∧ FrameExcept [.regs] s t)

/-- 8XY6 and 8XYE: the source is V[Y], or V[X] under the other setting of the quirk; VF is the bit shifted out (D24,
D7; logs 16, 11). -/
def Obligations.ShiftMovesOneBitIntoVF : Prop :=
  ∀ (x y : Nibble) (s : State) (src : Byte),
    src = (if s.config.quirkShiftReadsVY then s.reg y else s.reg x) →
    (∃ t, exec (.shr x y) s = .next t ∧ (t.reg 0xF#4).toNat = src.toNat % 2 ∧
      (x ≠ 0xF#4 → (t.reg x).toNat = src.toNat / 2) ∧ RegsExcept [x, 0xF#4] s t ∧ FrameExcept [.regs] s t) ∧
    (∃ t, exec (.shl x y) s = .next t ∧ (t.reg 0xF#4).toNat = src.toNat / 128 ∧
      (x ≠ 0xF#4 → (t.reg x).toNat = src.toNat * 2 % 256) ∧ RegsExcept [x, 0xF#4] s t ∧ FrameExcept [.regs] s t)

/-- CXNN: a free byte masked by NN, a new one for each execution (a free draw is the spec's D21; the counter is the
model's own, log 2). Whatever byte is drawn, V[X] is that byte AND NN. -/
def Obligations.RandomByteIsMasked : Prop :=
  ∀ (x : Nibble) (nn : Byte) (s : State),
    (∃ t, exec (.rnd x nn) s = .next t ∧ t.reg x = Config.randomByte s.draws &&& nn ∧ t.reg x &&& ~~~nn = 0x00#8 ∧
      (nn = 0x00#8 → t.reg x = 0x00#8) ∧ RegsExcept [x] s t ∧ t.draws = s.draws + 1 ∧
      FrameExcept [.regs, .draws] s t) ∧
    ∀ r : Byte, (rndWith r x nn s).reg x = r &&& nn

/-! Index and memory (43_index_memory.md) -/

/-- R170 and R172: ANNN and FX29. -/
def Obligations.LoadIndexAndFontIndex : Prop :=
  ∀ (x : Nibble) (nnn : Addr12) (s : State),
    (decodeWord (0xA#4 ++ nnn) = .ok (.ldINnn nnn) ∧
      ∃ t, exec (.ldINnn nnn) s = .next t ∧ t.i.toNat = nnn.toNat ∧ FrameExcept [.index] s t) ∧
    (decodeWord (0xF#4 ++ x ++ 0x29#8) = .ok (.ldFVx x) ∧
      ∃ t, exec (.ldFVx x) s = .next t ∧ t.i.toNat = (s.reg x).toNat * 5 ∧ FrameExcept [.index] s t)

/-- FX1E: I modulo 2^16, and VF set to 1 when the exact sum exceeds 0xFFF, else kept (the width and the exact test are
the spec's decisions D2, D12; logs 10, 15). -/
def Obligations.AddIndexFlagsOverflow : Prop :=
  ∀ (x : Nibble) (s : State),
    ∃ t, exec (.addIVx x) s = .next t ∧ t.i.toNat = (s.i.toNat + (s.reg x).toNat) % 65536 ∧
      t.reg 0xF#4 = (if 0xFFF < s.i.toNat + (s.reg x).toNat then 0x01#8 else s.reg 0xF#4) ∧
      RegsExcept [0xF#4] s t ∧ FrameExcept [.index, .regs] s t

/-- FX33: the decimal digits at I, I + 1, I + 2 modulo 4096 (the wrap is the spec's decision D1; log 9). -/
def Obligations.StoreDecimalDigits : Prop :=
  ∀ (x : Nibble) (s : State), s.mem.wf = true →
    ∃ t, exec (.ldBVx x) s = .next t ∧
      (t.memRead s.i.toNat).toNat = (s.reg x).toNat / 100 ∧
      (t.memRead (s.i.toNat + 1)).toNat = (s.reg x).toNat / 10 % 10 ∧
      (t.memRead (s.i.toNat + 2)).toNat = (s.reg x).toNat % 10 ∧
      MemExcept (s.storedAt 3) s t ∧ FrameExcept [.memory] s t

/-- FX55: V[0..X] at I, I + 1, … modulo 4096; I advances by X + 1 only under its quirk (D1, D13, D24; logs 9, 16). -/
def Obligations.StoreRegisters : Prop :=
  ∀ (x : Nibble) (s : State), s.mem.wf = true →
    ∃ t, exec (.ldMemIVx x) s = .next t ∧
      (∀ z : Nibble, z.toNat ≤ x.toNat → t.memRead (s.i.toNat + z.toNat) = s.reg z) ∧
      t.i.toNat = (if s.config.quirkMemIncrementI then (s.i.toNat + x.toNat + 1) % 65536 else s.i.toNat) ∧
      MemExcept (s.storedAt (x.toNat + 1)) s t ∧ FrameExcept [.memory, .index] s t

/-- FX65: V[0..X] from I, I + 1, … modulo 4096; I as in FX55 (D1, D13, D24; logs 9, 16). -/
def Obligations.LoadRegisters : Prop :=
  ∀ (x : Nibble) (s : State),
    ∃ t, exec (.ldVxMemI x) s = .next t ∧
      (∀ z : Nibble, t.reg z = if z.toNat ≤ x.toNat then s.memRead (s.i.toNat + z.toNat) else s.reg z) ∧
      t.i.toNat = (if s.config.quirkMemIncrementI then (s.i.toNat + x.toNat + 1) % 65536 else s.i.toNat) ∧
      FrameExcept [.regs, .index] s t

/-- Self-modifying code: the word whose bytes FX55 stored at I is the one a later Step at I fetches and runs, with
nothing in between (R64). -/
def Obligations.StoredWordIsFetched : Prop :=
  ∀ (x : Nibble) (s t u : State) (i : Instr), s.mem.wf = true → 1 ≤ x.toNat → exec (.ldMemIVx x) s = .next t →
    u.mem = t.mem → u.pc = s.i → u.run = .running → u.fault = none →
    decodeWord (joinBytes (s.reg 0x0#4) (s.reg 0x1#4)) = .ok i →
    step u = exec i { u with pc := u.pc + 2#16 }

/-! Display (44_display.md) -/

/-- R191, 00E0. -/
def Obligations.ClearTurnsEveryCellOff : Prop :=
  decodeWord 0x00E0#16 = .ok .cls ∧
  ∀ s : State, ∃ t, exec .cls s = .next t ∧ (∀ cx cy, t.cell cx cy = false) ∧
    t.display.length = s.display.length ∧ FrameExcept [.display] s t

/-- DXYN: every cell of the display is XORed with the sprite's bit there, the body clipped at the edges, and VF says
whether a lit cell was turned off (operands before the reset of VF, N = 0, the wrap of I + r: the spec's decisions D8,
D25, D1; logs 11, 20, 9). -/
def Obligations.DrawXorsSpriteAndReportsCollision : Prop :=
  ∀ (x y n : Nibble) (s : State), s.display.length = s.config.dispW * s.config.dispH →
    ∃ t, exec (.drw x y n) s = .next t ∧
      (∀ cx cy, cx < s.config.dispW → cy < s.config.dispH →
        t.cell cx cy = (s.cell cx cy ^^ s.spriteAt x y n cx cy)) ∧
      t.display.length = s.display.length ∧
      (t.reg 0xF#4 = 0x01#8 ∧
          (∃ cx cy, cx < s.config.dispW ∧ cy < s.config.dispH ∧ s.spriteAt x y n cx cy ∧ s.cell cx cy) ∨
        t.reg 0xF#4 = 0x00#8 ∧
          ¬ ∃ cx cy, cx < s.config.dispW ∧ cy < s.config.dispH ∧ s.spriteAt x y n cx cy ∧ s.cell cx cy) ∧
      RegsExcept [0xF#4] s t ∧ FrameExcept [.display, .regs] s t

/-- Two identical draws restore the display, and the second reports a collision exactly when a cell under a set,
unclipped sprite bit was unlit before the first (R194, an inference the spec marks "derived: from rule R192"; that V[X]
and V[Y] are equal at both draws is the rule's own premise). -/
def Obligations.SecondIdenticalDrawRestoresDisplay : Prop :=
  ∀ (x y n : Nibble) (s t : State), s.display.length = s.config.dispW * s.config.dispH →
    exec (.drw x y n) s = .next t → t.reg x = s.reg x → t.reg y = s.reg y →
    ∃ u, exec (.drw x y n) t = .next u ∧ u.display = s.display ∧
      (u.reg 0xF#4 = 0x01#8 ↔
        ∃ cx cy, cx < s.config.dispW ∧ cy < s.config.dispH ∧ s.spriteAt x y n cx cy ∧ s.cell cx cy = false)

/-! Keys and timers (45_input_timer.md) -/

/-- EX9E and EXA1 with a key number the machine has, or reduced to its low nibble under the policy `mask` (R210, R211,
R216; the policy is the spec's decision D10; log 13). -/
def Obligations.SkipOnKey : Prop :=
  ∀ (x : Nibble) (s : State), (s.reg x).toNat ≤ 0x0F ∨ s.config.keyIndexPolicy = .mask →
    exec (.skp x) s =
      .next (if s.keyPressed ((s.reg x).setWidth 4) then { s with pc := s.pc + 2#16 } else s) ∧
    exec (.sknp x) s =
      .next (if s.keyPressed ((s.reg x).setWidth 4) then s else { s with pc := s.pc + 2#16 })

/-- EX9E and EXA1 with a key number above 0x0F take KEY_INDEX_RANGE under the policy `fault` (the spec's decision D10;
log 13). -/
def Obligations.KeyIndexOutOfRangeFaults : Prop :=
  ∀ (x : Nibble) (s : State), 0x0F < (s.reg x).toNat → s.config.keyIndexPolicy = .fault →
    exec (.skp x) s =
      .next { s with
        pc := s.pc - 2#16, fault := some ⟨.keyIndexRange, s.pc - 2#16, 0xE#4 ++ x ++ 0x9E#8⟩ } ∧
    exec (.sknp x) s =
      .next { s with
        pc := s.pc - 2#16, fault := some ⟨.keyIndexRange, s.pc - 2#16, 0xE#4 ++ x ++ 0xA1#8⟩ }

/-- R212 and R214, FX07 and FX15; and FX18, which sets ST (R215's store). -/
def Obligations.TimerTransfers : Prop :=
  ∀ (x : Nibble) (s : State),
    (decodeWord (0xF#4 ++ x ++ 0x07#8) = .ok (.ldVxDt x) ∧
      ∃ t, exec (.ldVxDt x) s = .next t ∧ t.reg x = s.dt ∧ RegsExcept [x] s t ∧ FrameExcept [.regs] s t) ∧
    (decodeWord (0xF#4 ++ x ++ 0x15#8) = .ok (.ldDtVx x) ∧
      ∃ t, exec (.ldDtVx x) s = .next t ∧ t.dt = s.reg x ∧ FrameExcept [.delayTimer] s t) ∧
    (decodeWord (0xF#4 ++ x ++ 0x18#8) = .ok (.ldStVx x) ∧
      ∃ t, exec (.ldStVx x) s = .next t ∧ t.st = s.reg x ∧ FrameExcept [.soundTimer] s t)

/-- FX0A with no key latched: the wait begins or goes on, PC goes back to the FX0A, and the lowest pressed key, if one
is pressed, is latched; while the latched key is still held, FX0A only goes back to itself (R213; sampling and "lowest"
are the spec's decision D11; log 14). -/
def Obligations.KeyWaitLatchesLowestPressedKeyAndHolds : Prop :=
  ∀ (x : Nibble) (s : State),
    (s.kwKey = none →
      ∃ t, exec (.ldVxK x) s = .next t ∧ t.pc = s.pc - 2#16 ∧ t.kwReg = some x ∧
        ((∀ k, s.keyPressed k = false) → t.kwKey = none) ∧
        (∀ k, s.keyPressed k = true → (∀ j : Nibble, j.toNat < k.toNat → s.keyPressed j = false) →
          t.kwKey = some k) ∧
        FrameExcept [.pc, .keyWait] s t) ∧
    (∀ k, s.kwKey = some k → s.keyPressed k = true →
      exec (.ldVxK x) s = .next { s with pc := s.pc - 2#16 })

/-- FX0A when the latched key is released completes: V[X] is the key code, the wait is IDLE, PC stays past the FX0A
(R213; D11; log 14). -/
def Obligations.KeyWaitCompletesOnRelease : Prop :=
  ∀ (x k : Nibble) (s : State), s.kwKey = some k → s.keyPressed k = false →
    ∃ t, exec (.ldVxK x) s = .next t ∧ (t.reg x).toNat = k.toNat ∧ t.kwReg = none ∧ t.kwKey = none ∧
      RegsExcept [x] s t ∧ FrameExcept [.regs, .keyWait] s t

/-- While a wait is in progress every accepted Step re-executes its FX0A: either PC and everything but the latch stay,
or the latched key is released, V[X] is its code and PC moves on. No other operation touches the wait (R276; D11, D31;
log 14). -/
def Obligations.NoLaterInstructionUntilRelease : Prop :=
  ∀ (s : State) (x : Nibble), s.Inv → s.kwReg = some x →
    (∀ t, s.run = .running → s.fault = none → step s = .next t →
      (t.kwReg = some x ∧ FrameExcept [.keyWait] s t) ∨
      (∃ k, s.kwKey = some k ∧ s.keyPressed k = false ∧ (t.reg x).toNat = k.toNat ∧ t.pc = s.pc + 2#16 ∧
        t.kwReg = none ∧ t.kwKey = none ∧ RegsExcept [x] s t ∧ FrameExcept [.regs, .keyWait, .pc] s t)) ∧
    (∀ t op, op ≠ .step → perform op s = .next t → t.kwReg = some x ∧ t.kwKey = s.kwKey)

/-! Reset, creation and the host's operations (60_exceptions.md, 70_reset_and_hazards.md) -/

/-- Reset is the creation of an instance with the default parameters (R270), and that state is the table of R35 (all
but `run`, PC and the font is the spec's decisions D14, D15; logs 6, 8; the default font's bytes are general knowledge,
D16, log 7). -/
def Obligations.ResetStateIsTheTable : Prop :=
  State.create Config.default = .ok State.reset ∧
  State.reset.run = .loading ∧ State.reset.pc = 0x200#16 ∧ State.reset.i = 0x0000#16 ∧ State.reset.sp.val = 0 ∧
  (∀ x, State.reset.reg x = 0x00#8) ∧ (∀ (j : Nat) (h : j < 12), State.reset.stack[j] = 0x0000#16) ∧
  State.reset.dt = 0x00#8 ∧ State.reset.st = 0x00#8 ∧
  State.reset.display.length = 64 * 32 ∧ (∀ cx cy, State.reset.cell cx cy = false) ∧
  (∀ k, State.reset.keyPressed k = false) ∧ State.reset.kwReg = none ∧ State.reset.kwKey = none ∧
  (∀ (a : Nat) (h : a < 80), State.reset.memRead a = defaultFont[a]) ∧
  (∀ a, 80 ≤ a → a < 4096 → State.reset.memRead a = 0x00#8) ∧
  State.reset.fault = none ∧ State.reset.reports = [] ∧ State.reset.config = Config.default

/-- Creation with any parameters in range, and only those, gives an instance: Loading, PC at `ENTRY`, `FONT` in
0x000..0x04F and 0x00 in every other byte (D14, D15, D16, D22, D27; logs 6, 7, 8, 19). -/
def Obligations.CreationPlacesFont : Prop :=
  ∀ c : Config, (c.valid = false → ∃ r, State.create c = .error r) ∧
    (c.valid = true → ∃ s, State.create c = .ok s ∧ s.config = c ∧ s.run = .loading ∧ s.pc = c.entry ∧
      (∀ (a : Nat) (h : a < 80), s.memRead a = c.font[a]) ∧ (∀ a, 80 ≤ a → a < 4096 → s.memRead a = 0x00#8))

/-- Load of an image that fits places it at `ENTRY` and makes the machine Running; an oversize image is refused and
changes nothing; outside Loading nothing is loaded (R246; D17, D22; log 17). -/
def Obligations.LoadPlacesImageOrRefuses : Prop :=
  ∀ (image : List Byte) (s : State), s.mem.wf = true → s.config.valid = true →
    (s.run = .loading → image.length ≤ 4096 - s.config.entry.toNat →
      ∃ t, perform (.load image) s = .next t ∧ t.run = .running ∧
        (∀ (j : Nat) (h : j < image.length), t.memRead (s.config.entry.toNat + j) = image[j]) ∧
        (∀ a, a < 4096 → a < s.config.entry.toNat ∨ s.config.entry.toNat + image.length ≤ a →
          t.memRead a = s.memRead a) ∧
        FrameExcept [.memory, .lifecycle] s t) ∧
    (s.run = .loading → 4096 - s.config.entry.toNat < image.length →
      loadProgram image s = .oversize ∧ perform (.load image) s = .next s) ∧
    (s.run ≠ .loading → loadProgram image s = .notAccepted ∧ perform (.load image) s = .next s)

/-- Tick decrements both timers by one, saturating at 0, in every lifecycle state but Quit and whatever `fault` holds,
and changes nothing else (R240; acceptance is the spec's decision D19; log 17). -/
def Obligations.TickDecrementsSaturating : Prop :=
  ∀ s : State,
    (s.run ≠ .quit → ∃ t, perform .tick s = .next t ∧ t.dt.toNat = s.dt.toNat - 1 ∧ t.st.toNat = s.st.toNat - 1 ∧
      FrameExcept [.delayTimer, .soundTimer] s t) ∧
    (s.run = .quit → perform .tick s = .next s)

/-- KeyEvent sets the one key it names; a code above 0xF, or a machine that has quit, accepts none (R241; D26;
log 17). -/
def Obligations.KeyEventSetsOneKey : Prop :=
  ∀ (code : Nat) (p : Bool) (s : State),
    (code < 16 → s.run ≠ .quit → ∃ t, perform (.keyEvent code p) s = .next t ∧
      (∀ k : Nibble, t.keyPressed k = if k.toNat = code then p else s.keyPressed k) ∧ FrameExcept [.keys] s t) ∧
    (16 ≤ code ∨ s.run = .quit → perform (.keyEvent code p) s = .next s)

/-- Pause, Resume and Quit change `run` alone, from the lifecycle states of the table of R245; inspection changes
nothing (D17; log 17). -/
def Obligations.PauseResumeQuitFollowTable : Prop :=
  ∀ s : State,
    perform .pause s = .next (if s.run = .running then { s with run := .paused } else s) ∧
    perform .resume s = .next (if s.run = .paused then { s with run := .running } else s) ∧
    perform .quit s = .next { s with run := .quit } ∧
    perform .inspect s = .next s

/-- An instance is created in Loading; Loading becomes Running only by Load; Running and Paused toggle only by Pause and
Resume; Quit is entered only by Quit; Loading is never re-entered and Quit never left; Step executes only in Running
(10_state.md R30). Which operation makes which transition is the spec's decision D17 (log 17); that a Step not accepted
answers the same state as a next state is the model's choice, log 3. -/
def Obligations.LifecycleIsOneWay : Prop :=
  (∀ (c : Config) (s : State), State.create c = .ok s → s.run = .loading) ∧
  (∀ s : State, s.run ≠ .running → step s = .next s) ∧
  ∀ (op : Operation) (s t : State), perform op s = .next t →
    t.run = s.run ∨
    (s.run = .loading ∧ t.run = .running ∧ ∃ image, op = .load image) ∨
    (s.run = .running ∧ t.run = .paused ∧ op = .pause) ∨
    (s.run = .paused ∧ t.run = .running ∧ op = .resume) ∨
    (s.run ≠ .quit ∧ t.run = .quit ∧ op = .quit)

/-! Whole-machine rules -/

/-- Only KeyEvent writes the keys, and no instruction but EX9E, EXA1 and FX0A reads them: any other instruction does
the same under any other keys (10_state.md R27; the acceptance of KeyEvent is the spec's decision D26, log 17). -/
def Obligations.KeysWrittenByKeyEventReadByThree : Prop :=
  (∀ (op : Operation) (s t : State), perform op s = .next t → t.keys ≠ s.keys → ∃ code p, op = .keyEvent code p) ∧
  ∀ (i : Instr) (s t : State) (ks : Vector Bool 16), i.readsKeys = false → exec i s = .next t →
    exec i { s with keys := ks } = .next { t with keys := ks }

/-- Only 00E0 and DXYN write the display, and no other instruction depends on it (10_state.md R26). -/
def Obligations.DisplayBelongsToClearAndDraw : Prop :=
  (∀ (op : Operation) (s t : State), perform op s = .next t → t.display ≠ s.display →
    op = .step ∧ (decodeWord s.fetchWord = .ok .cls ∨ ∃ x y n, decodeWord s.fetchWord = .ok (.drw x y n))) ∧
  ∀ (i : Instr) (s t : State) (d : List Bool), i ≠ .cls → (∀ x y n, i ≠ .drw x y n) → exec i s = .next t →
    exec i { s with display := d } = .next { t with display := d }

/-- Only FX33, FX55 and Load write memory, and no instruction but those and DXYN, FX65 depends on it
(20_memory.md R66). -/
def Obligations.MemoryBelongsToItsInstructions : Prop :=
  (∀ (op : Operation) (s t : State), perform op s = .next t → t.mem ≠ s.mem →
    (∃ image, op = .load image) ∨
    op = .step ∧ ∃ x, decodeWord s.fetchWord = .ok (.ldBVx x) ∨ decodeWord s.fetchWord = .ok (.ldMemIVx x)) ∧
  ∀ (i : Instr) (s t : State) (m : Memory),
    (∀ x, i ≠ .ldBVx x ∧ i ≠ .ldMemIVx x ∧ i ≠ .ldVxMemI x) → (∀ x y n, i ≠ .drw x y n) → exec i s = .next t →
    exec i { s with mem := m } = .next { t with mem := m }

/-- DT is written only by FX15 and Tick and read by no instruction but FX07; ST is written only by FX18 and Tick and
read by no instruction (10_state.md R25, 60_exceptions.md R249). -/
def Obligations.TimersBelongToTheirInstructions : Prop :=
  (∀ (op : Operation) (s t : State), perform op s = .next t →
    (t.dt ≠ s.dt → op = .tick ∨ op = .step ∧ ∃ x, decodeWord s.fetchWord = .ok (.ldDtVx x)) ∧
    (t.st ≠ s.st → op = .tick ∨ op = .step ∧ ∃ x, decodeWord s.fetchWord = .ok (.ldStVx x))) ∧
  (∀ (i : Instr) (s t : State) (b : Byte), (∀ x, i ≠ .ldVxDt x ∧ i ≠ .ldDtVx x) → exec i s = .next t →
    exec i { s with dt := b } = .next { t with dt := b }) ∧
  ∀ (i : Instr) (s t : State) (b : Byte), (∀ x, i ≠ .ldStVx x) → exec i s = .next t →
    exec i { s with st := b } = .next { t with st := b }

/-- "The stack is not in the memory address space: no instruction reads or writes it except 2NNN and 00EE"; each moves
SP by one at most (10_state.md R24; its form is the spec's decision D32, log 22). -/
def Obligations.StackBelongsToCallAndReturn : Prop :=
  (∀ (op : Operation) (s t : State), perform op s = .next t → t.stack ≠ s.stack ∨ t.sp ≠ s.sp →
    op = .step ∧
      ((∃ nnn, decodeWord s.fetchWord = .ok (.call nnn) ∧ t.sp.val = s.sp.val + 1) ∨
        (decodeWord s.fetchWord = .ok .ret ∧ t.stack = s.stack ∧ s.sp.val = t.sp.val + 1))) ∧
  ∀ (i : Instr) (s t : State) (st' : Vector Word 12) (sp' : Fin 13), i ≠ .ret → (∀ nnn, i ≠ .call nnn) →
    exec i s = .next t → exec i { s with stack := st', sp := sp' } = .next { t with stack := st', sp := sp' }

/-- An instruction outside the table of R21 that does not name VF as its destination leaves VF as it was, and every
instruction leaves every register but its destination, VF and FX65's range as it was. -/
def Obligations.RegistersChangeOnlyAsNamed : Prop :=
  ∀ (i : Instr) (s t : State) (z : Nibble), exec i s = .next t → i.destReg ≠ some z →
    (∀ x, i = .ldVxMemI x → x.toNat < z.toNat) → (i.writesVF = true → z ≠ 0xF#4) → t.reg z = s.reg z

/-- No operation changes a parameter, and the reports only grow, at their end (R32, R33; D23, D24; logs 1, 21). -/
def Obligations.ParametersFixedAndReportsAppended : Prop :=
  ∀ (op : Operation) (s t : State), perform op s = .next t →
    t.config = s.config ∧ ∃ new, t.reports = s.reports ++ new ∧ new.length ≤ 1

/-- From a faulted state of an instance, under every schedule, `fault` stays, and nothing changes but the timers, the
keys and the lifecycle (R232, R235; the spec's decision D6; log 4). -/
def Obligations.FaultIsFinal : Prop :=
  ∀ (ops : List Operation) (s t : State) (f : FaultRecord), s.Inv → s.fault = some f → performAll ops s = .next t →
    t.fault = some f ∧ FrameExcept [.delayTimer, .soundTimer, .keys, .lifecycle] s t

/-! The invariant -/

/-- The invariant holds at reset. -/
def Obligations.InvariantHoldsAtReset : Prop := State.reset.Inv

/-- The invariant holds of every instance at its creation, whatever its parameters. -/
def Obligations.CreationEstablishesInvariant : Prop :=
  ∀ (c : Config) (s : State), State.create c = .ok s → s.Inv

/-- Every Step keeps the invariant: memory canonical and inside its 4096 bytes, the display of its size, the key wait in
a legal state with its FX0A at PC, a recorded fault at PC with its word and cause, every report of an unrecognized
word. -/
def Obligations.StepKeepsInvariant : Prop := ∀ s t : State, s.Inv → step s = .next t → t.Inv

/-- Every state an instance reaches, under any schedule of operations, satisfies the invariant, and no schedule stops
the model (any schedule: the spec's D18, log 17; that a fault and a Step not accepted are next states: logs 4 and 3). -/
def Obligations.EveryScheduleKeepsInvariant : Prop :=
  ∀ (c : Config) (s : State) (ops : List Operation), State.create c = .ok s →
    ∃ t, performAll ops s = .next t ∧ t.Inv
end

