-- ==== Sys2Proof/Laws/Decode.lean ====
section
/-! SUPPORT. The fields of a packed word, and bytes and words into each other. -/

namespace Sys2Proof

variable (op x y n : Nibble) (nn : Byte) (nnn : Addr12)

@[simp] theorem packXNN_op : (packXNN op x nn).extractLsb' 12 4 = op := by
  ext i h
  interval_cases i <;> simp [packXNN]

@[simp] theorem packXNN_x : (packXNN op x nn).extractLsb' 8 4 = x := by
  ext i h
  interval_cases i <;> simp [packXNN]

@[simp] theorem packXNN_nn : (packXNN op x nn).extractLsb' 0 8 = nn := by
  ext i h
  interval_cases i <;> simp [packXNN]

@[simp] theorem packNNN_op : (packNNN op nnn).extractLsb' 12 4 = op := by
  ext i h
  interval_cases i <;> simp [packNNN]

@[simp] theorem packNNN_nnn : (packNNN op nnn).extractLsb' 0 12 = nnn := by
  ext i h
  interval_cases i <;> simp [packNNN]

@[simp] theorem packNNN_x : (packNNN op nnn).extractLsb' 8 4 = nnn.extractLsb' 8 4 := by
  ext i h
  interval_cases i <;> simp [packNNN]

@[simp] theorem packXYN_op : (packXYN op x y n).extractLsb' 12 4 = op := by
  ext i h
  interval_cases i <;> simp [packXYN]

@[simp] theorem packXYN_x : (packXYN op x y n).extractLsb' 8 4 = x := by
  ext i h
  interval_cases i <;> simp [packXYN]

@[simp] theorem packXYN_y : (packXYN op x y n).extractLsb' 4 4 = y := by
  ext i h
  interval_cases i <;> simp [packXYN]

@[simp] theorem packXYN_n : (packXYN op x y n).extractLsb' 0 4 = n := by
  ext i h
  interval_cases i <;> simp [packXYN]

/-- The packed words are the fields written side by side, high-order first. -/
theorem append_packNNN : (op ++ nnn : BitVec (4 + 12)) = packNNN op nnn := by
  have := op.isLt
  have := nnn.isLt
  apply BitVec.eq_of_toNat_eq
  simp only [packNNN, BitVec.toNat_append, BitVec.toNat_or, BitVec.toNat_shiftLeft, BitVec.toNat_setWidth,
    Nat.shiftLeft_eq]
  congr 1 <;> omega

theorem append_packXNN : (op ++ x ++ nn : BitVec (4 + 4 + 8)) = packXNN op x nn := by
  have := op.isLt
  have := x.isLt
  have := nn.isLt
  apply BitVec.eq_of_toNat_eq
  simp only [packXNN, BitVec.toNat_append, BitVec.toNat_or, BitVec.toNat_shiftLeft, BitVec.toNat_setWidth,
    Nat.shiftLeft_or_distrib]
  simp only [Nat.shiftLeft_eq]
  congr 1
  · congr 1 <;> omega
  · omega

theorem append_packXYN : (op ++ x ++ y ++ n : BitVec (4 + 4 + 4 + 4)) = packXYN op x y n := by
  have := op.isLt
  have := x.isLt
  have := y.isLt
  have := n.isLt
  apply BitVec.eq_of_toNat_eq
  simp only [packXYN, BitVec.toNat_append, BitVec.toNat_or, BitVec.toNat_shiftLeft, BitVec.toNat_setWidth,
    Nat.shiftLeft_or_distrib]
  simp only [Nat.shiftLeft_eq]
  congr 1
  · congr 1
    · congr 1 <;> omega
    · omega
  · omega

/-- A word is its op, X and low byte put together. -/
theorem packXNN_fields (w : Word) : packXNN (fields w).op (fields w).x (fields w).nn = w := by
  apply BitVec.eq_of_getLsbD_eq
  intro i h
  interval_cases i <;> simp [packXNN, fields]

/-- A word is its op and NNN put together. -/
theorem packNNN_fields (w : Word) : packNNN (fields w).op (fields w).nnn = w := by
  apply BitVec.eq_of_getLsbD_eq
  intro i h
  interval_cases i <;> simp [packNNN, fields]

/-- A word is its op, X, Y and low nibble put together. -/
theorem packXYN_fields (w : Word) : packXYN (fields w).op (fields w).x (fields w).y (fields w).n = w := by
  apply BitVec.eq_of_getLsbD_eq
  intro i h
  interval_cases i <;> simp [packXYN, fields]

@[simp] theorem joinBytes_high_low (w : Word) : joinBytes (highByte w) (lowByte w) = w := by
  apply BitVec.eq_of_getLsbD_eq
  intro i h
  interval_cases i <;> simp [joinBytes, highByte, lowByte]

@[simp] theorem highByte_joinBytes (hi lo : Byte) : highByte (joinBytes hi lo) = hi := by
  ext i h
  interval_cases i <;> simp [joinBytes, highByte]

@[simp] theorem lowByte_joinBytes (hi lo : Byte) : lowByte (joinBytes hi lo) = lo := by
  ext i h
  interval_cases i <;> simp [joinBytes, lowByte]

/-- On two bytes and more the byte decoder is the word decoder. -/
theorem decodeBytes_cons (hi lo : Byte) (rest : List Byte) :
    decodeBytes (hi :: lo :: rest) = (decodeWord (joinBytes hi lo)).map fun i => (i, rest) := rfl

theorem decodeBytes_wordBytes (w : Word) (rest : List Byte) :
    decodeBytes (wordBytes w ++ rest) = (decodeWord w).map fun i => (i, rest) := by
  simp [wordBytes, decodeBytes_cons]

end Sys2Proof
end

