-- ==== Sys2Proof/Laws/Display.lean ====
section
/-! SUPPORT. What a sprite blit does to every cell and when it collides: the one spec of `Canvas.blit` that proofs cite. -/

namespace Sys2Proof.Machine

/-- The cell (cx, cy) of a canvas of width `w`. -/
def Canvas.cellAt (d : Canvas) (w cx cy : Nat) : Bool := d.cells.getD (cy * w + cx) false

@[simp] theorem Canvas.toggle_length (d : Canvas) (idx : Nat) : (d.toggle idx).cells.length = d.cells.length := by
  simp [Canvas.toggle]

/-- The row-major index is one to one on the display. -/
theorem cellIndex_inj {w cx cx' cy cy' : Nat} (h : cx < w) (h' : cx' < w) (e : cy * w + cx = cy' * w + cx') :
    cy = cy' ∧ cx = cx' := by
  have hw : 0 < w := by omega
  have hy : cy = cy' := by
    have := congrArg (· / w) e
    simpa [Nat.add_div_of_dvd_right, Nat.mul_add_div hw, Nat.mul_comm _ w, Nat.div_eq_of_lt h, Nat.div_eq_of_lt h']
      using this
  subst hy
  exact ⟨rfl, by omega⟩

theorem cellIndex_lt {w h cx cy : Nat} (hx : cx < w) (hy : cy < h) : cy * w + cx < w * h := by
  have : (cy + 1) * w ≤ h * w := Nat.mul_le_mul_right w hy
  rw [Nat.mul_comm w h]
  rw [Nat.add_mul] at this
  omega

theorem Canvas.cellAt_toggle {d : Canvas} {w h x y : Nat} (hlen : d.cells.length = w * h) (hx : x < w) (hy : y < h)
    {cx cy : Nat} (hcx : cx < w) :
    (d.toggle (y * w + x)).cellAt w cx cy = (d.cellAt w cx cy ^^ decide (cy = y ∧ cx = x)) := by
  have hlt := cellIndex_lt hx hy
  rw [← hlen] at hlt
  by_cases e : cy = y ∧ cx = x
  · obtain ⟨rfl, rfl⟩ := e
    simp [Canvas.cellAt, Canvas.toggle, List.getD_eq_getElem?_getD, hlt]
  · have hne : y * w + x ≠ cy * w + cx := fun e' => by
      have := cellIndex_inj hx hcx e'
      exact e ⟨this.1.symm, this.2.symm⟩
    simp [Canvas.cellAt, Canvas.toggle, List.getD_eq_getElem?_getD, List.getElem?_set_ne hne, e]

/-- One row of a blit, over columns c, …, c + k - 1 of the sprite byte. -/
theorem Canvas.blitRow_spec {w h x0 y : Nat} (row : Byte) (hy : y < h) (k c : Nat) (d : Canvas)
    (hlen : d.cells.length = w * h) :
    (Canvas.blitRow w x0 y row (List.range' c k) d).cells.length = w * h ∧
    (∀ cx cy, cx < w → (Canvas.blitRow w x0 y row (List.range' c k) d).cellAt w cx cy =
      (d.cellAt w cx cy ^^
        (decide (cy = y ∧ x0 + c ≤ cx ∧ cx < x0 + c + k) && spriteBit row (cx - x0)))) ∧
    ((Canvas.blitRow w x0 y row (List.range' c k) d).collided = true ↔ d.collided = true ∨
      ∃ cx, cx < w ∧ x0 + c ≤ cx ∧ cx < x0 + c + k ∧ spriteBit row (cx - x0) = true ∧ d.cellAt w cx y = true) := by
  induction k generalizing c d with
  | zero =>
    refine ⟨hlen, fun cx cy _ => ?_, ?_⟩
    · have : ¬(cy = y ∧ x0 + c ≤ cx ∧ cx < x0 + c + 0) := by omega
      simp only [List.range', Canvas.blitRow, this, decide_false, Bool.false_and, Bool.xor_false]
    · simp only [List.range', Canvas.blitRow]
      constructor
      · exact Or.inl
      · rintro (h | ⟨cx, _, h1, h2, _⟩)
        · exact h
        · omega
  | succ k ih =>
    rw [List.range'_succ]
    simp only [Canvas.blitRow]
    by_cases hw : w ≤ x0 + c
    · rw [if_pos hw]
      refine ⟨hlen, fun cx cy hcx => ?_, ?_⟩
      · have : ¬(cy = y ∧ x0 + c ≤ cx ∧ cx < x0 + c + (k + 1)) := by omega
        simp only [this, decide_false, Bool.false_and, Bool.xor_false]
      · constructor
        · exact Or.inl
        · rintro (h | ⟨cx, h0, h1, _⟩)
          · exact h
          · omega
    · rw [if_neg hw]
      by_cases hb : spriteBit row c = true
      · rw [if_pos hb]
        have hx : x0 + c < w := by omega
        obtain ⟨h1, h2, h3⟩ := ih (c + 1) (d.toggle (y * w + (x0 + c))) (by simp [hlen])
        refine ⟨h1, fun cx cy hcx => ?_, ?_⟩
        · rw [h2 cx cy hcx, Canvas.cellAt_toggle hlen hx hy hcx]
          by_cases e : cy = y ∧ cx = x0 + c
          · obtain ⟨rfl, rfl⟩ := e
            have : ¬(x0 + (c + 1) ≤ x0 + c) := by omega
            simp [hb]
          · by_cases r : cy = y ∧ x0 + (c + 1) ≤ cx ∧ cx < x0 + (c + 1) + k
            · have r' : cy = y ∧ x0 + c ≤ cx ∧ cx < x0 + c + (k + 1) := by omega
              rw [decide_eq_false e, decide_eq_true r, decide_eq_true r', Bool.xor_false]
            · have r' : ¬(cy = y ∧ x0 + c ≤ cx ∧ cx < x0 + c + (k + 1)) := by omega
              simp only [e, r, r', decide_false, Bool.false_and, Bool.xor_false]
        · rw [h3]
          have hcell : ∀ cx, cx < w → x0 + (c + 1) ≤ cx →
              (d.toggle (y * w + (x0 + c))).cellAt w cx y = d.cellAt w cx y := fun cx hcx hge => by
            have : ¬(y = y ∧ cx = x0 + c) := by omega
            rw [Canvas.cellAt_toggle hlen hx hy hcx, decide_eq_false this, Bool.xor_false]
          have hcol : (d.toggle (y * w + (x0 + c))).collided = true ↔
              d.collided = true ∨ d.cellAt w (x0 + c) y = true := by
            simp only [Canvas.toggle, Bool.or_eq_true, Canvas.cellAt]
          rw [hcol]
          constructor
          · rintro ((h | h) | ⟨cx, h0, h1, h2, h3, h4⟩)
            · exact .inl h
            · exact .inr ⟨x0 + c, hx, Nat.le_refl _, by omega, by simpa using hb, h⟩
            · exact .inr ⟨cx, h0, by omega, by omega, h3, (hcell cx h0 h1) ▸ h4⟩
          · rintro (h | ⟨cx, h0, h1, h2, h3, h4⟩)
            · exact .inl (.inl h)
            · by_cases e : cx = x0 + c
              · exact .inl (.inr (e ▸ h4))
              · exact .inr ⟨cx, h0, by omega, by omega, h3, (hcell cx h0 (by omega)).symm ▸ h4⟩
      · rw [if_neg hb]
        obtain ⟨h1, h2, h3⟩ := ih (c + 1) d hlen
        refine ⟨h1, fun cx cy hcx => ?_, ?_⟩
        · rw [h2 cx cy hcx]
          by_cases e : cx = x0 + c
          · subst e
            have hf : spriteBit row c = false := by simpa using hb
            simp [hf]
          · by_cases r : cy = y ∧ x0 + (c + 1) ≤ cx ∧ cx < x0 + (c + 1) + k
            · have r' : cy = y ∧ x0 + c ≤ cx ∧ cx < x0 + c + (k + 1) := by omega
              simp only [r, r', and_self, decide_true]
            · have r' : ¬(cy = y ∧ x0 + c ≤ cx ∧ cx < x0 + c + (k + 1)) := by omega
              simp only [r, r', decide_false]
        · rw [h3]
          constructor
          · rintro (h | ⟨cx, h0, h1, h2, h3, h4⟩)
            · exact .inl h
            · exact .inr ⟨cx, h0, by omega, by omega, h3, h4⟩
          · rintro (h | ⟨cx, h0, h1, h2, h3, h4⟩)
            · exact .inl h
            · have e : cx ≠ x0 + c := fun e => hb (by rw [e] at h3; simpa using h3)
              exact .inr ⟨cx, h0, by omega, by omega, h3, h4⟩

/-- A blit of the given rows from row `y` on: every cell of the display is XORed with the sprite's bit there, and it
collides when one of those bits meets a lit cell. -/
theorem Canvas.blit_spec {w h x0 : Nat} (rows : List Byte) (y : Nat) (d : Canvas)
    (hlen : d.cells.length = w * h) :
    (Canvas.blit w h x0 y rows d).cells.length = w * h ∧
    (∀ cx cy, cx < w → cy < h → (Canvas.blit w h x0 y rows d).cellAt w cx cy =
      (d.cellAt w cx cy ^^ (decide (x0 ≤ cx ∧ cx < x0 + 8 ∧ y ≤ cy ∧ cy < y + rows.length) &&
        spriteBit (rows.getD (cy - y) 0x00#8) (cx - x0)))) ∧
    ((Canvas.blit w h x0 y rows d).collided = true ↔ d.collided = true ∨
      ∃ cx cy, cx < w ∧ cy < h ∧ (x0 ≤ cx ∧ cx < x0 + 8 ∧ y ≤ cy ∧ cy < y + rows.length) ∧
        spriteBit (rows.getD (cy - y) 0x00#8) (cx - x0) = true ∧ d.cellAt w cx cy = true) := by
  induction rows generalizing y d with
  | nil =>
    refine ⟨hlen, fun cx cy _ _ => ?_, ?_⟩
    · have : ¬(x0 ≤ cx ∧ cx < x0 + 8 ∧ y ≤ cy ∧ cy < y + ([] : List Byte).length) := by
        simp only [List.length_nil]; omega
      simp only [Canvas.blit, this, decide_false, Bool.false_and, Bool.xor_false]
    · simp only [Canvas.blit]
      constructor
      · exact Or.inl
      · rintro (h | ⟨cx, cy, _, _, h1, _⟩)
        · exact h
        · simp only [List.length_nil] at h1; omega
  | cons row rows ih =>
    simp only [Canvas.blit]
    by_cases hy : h ≤ y
    · rw [if_pos hy]
      refine ⟨hlen, fun cx cy _ hcy => ?_, ?_⟩
      · have : ¬(x0 ≤ cx ∧ cx < x0 + 8 ∧ y ≤ cy ∧ cy < y + (row :: rows).length) := by omega
        simp only [this, decide_false, Bool.false_and, Bool.xor_false]
      · constructor
        · exact Or.inl
        · rintro (h | ⟨cx, cy, _, _, h1, _⟩)
          · exact h
          · omega
    · rw [if_neg hy, List.range_eq_range']
      obtain ⟨r1, r2, r3⟩ := Canvas.blitRow_spec (x0 := x0) row (show y < h by omega) 8 0 d hlen
      obtain ⟨b1, b2, b3⟩ := ih (y + 1) _ r1
      refine ⟨b1, fun cx cy hcx hcy => ?_, ?_⟩
      · rw [b2 cx cy hcx hcy, r2 cx cy hcx]
        simp only [List.length_cons, Nat.add_zero]
        by_cases e : cy = y
        · subst e
          have n : ¬(x0 ≤ cx ∧ cx < x0 + 8 ∧ cy + 1 ≤ cy ∧ cy < cy + 1 + rows.length) := by omega
          simp only [n, decide_false, Bool.false_and, Bool.xor_false, Nat.sub_self, List.getD_cons_zero]
          by_cases r : x0 ≤ cx ∧ cx < x0 + 8
          · have r' : x0 ≤ cx ∧ cx < x0 + 8 ∧ cy ≤ cy ∧ cy < cy + (rows.length + 1) := by omega
            simp only [r, r', and_self, decide_true]
          · have r' : ¬(x0 ≤ cx ∧ cx < x0 + 8 ∧ cy ≤ cy ∧ cy < cy + (rows.length + 1)) := by omega
            have r'' : ¬(True ∧ x0 ≤ cx ∧ cx < x0 + 8) := by omega
            rw [decide_eq_false r', decide_eq_false r'']
        · have n : ¬(cy = y ∧ x0 ≤ cx ∧ cx < x0 + 8) := by omega
          simp only [n, decide_false, Bool.false_and, Bool.xor_false]
          by_cases r : x0 ≤ cx ∧ cx < x0 + 8 ∧ y + 1 ≤ cy ∧ cy < y + 1 + rows.length
          · have r' : x0 ≤ cx ∧ cx < x0 + 8 ∧ y ≤ cy ∧ cy < y + (rows.length + 1) := by omega
            have s : cy - y = (cy - (y + 1)) + 1 := by omega
            rw [decide_eq_true r, decide_eq_true r', s, List.getD_cons_succ]
          · have r' : ¬(x0 ≤ cx ∧ cx < x0 + 8 ∧ y ≤ cy ∧ cy < y + (rows.length + 1)) := by omega
            simp only [r, r', decide_false, Bool.false_and]
      · rw [b3, r3]
        simp only [List.length_cons, Nat.add_zero]
        have hcell : ∀ cx cy, cx < w → cy ≠ y →
            (Canvas.blitRow w x0 y row (List.range' 0 8) d).cellAt w cx cy = d.cellAt w cx cy := fun cx cy hcx e => by
          have n : ¬(cy = y ∧ x0 + 0 ≤ cx ∧ cx < x0 + 0 + 8) := by omega
          rw [r2 cx cy hcx, decide_eq_false n, Bool.false_and, Bool.xor_false]
        constructor
        · rintro ((h | ⟨cx, h0, h1, h2, h3, h4⟩) | ⟨cx, cy, h0, h1, h2, h3, h4⟩)
          · exact .inl h
          · exact .inr ⟨cx, y, h0, by omega, by omega, by simpa using h3, h4⟩
          · refine .inr ⟨cx, cy, h0, h1, by omega, ?_, (hcell cx cy h0 (by omega)) ▸ h4⟩
            rwa [show cy - y = (cy - (y + 1)) + 1 by omega, List.getD_cons_succ]
        · rintro (h | ⟨cx, cy, h0, h1, h2, h3, h4⟩)
          · exact .inl (.inl h)
          · by_cases e : cy = y
            · subst e
              exact .inl (.inr ⟨cx, h0, by omega, by omega, by simpa using h3, h4⟩)
            · refine .inr ⟨cx, cy, h0, h1, by omega, ?_, (hcell cx cy h0 e).symm ▸ h4⟩
              rwa [show cy - y = (cy - (y + 1)) + 1 by omega, List.getD_cons_succ] at h3

end Sys2Proof.Machine
end

