-- ==== Sys2Proof/Laws/Memory.lean ====
section
/-! SUPPORT. Memory: reads after writes, and the canonical form that every operation keeps. -/

namespace Sys2Proof.Machine

namespace Memory

@[simp] theorem read_nil (a : Nat) : Memory.read [] a = Memory.unlisted a := rfl

/-- In a canonical list an address below the first one is unlisted. -/
theorem read_below {lo : Nat} {m : Memory} (h : Memory.wfFrom lo m) {a : Nat} (ha : a < lo) :
    m.read a = Memory.unlisted a := by
  induction m generalizing lo with
  | nil => rfl
  | cons c m ih =>
    obtain ⟨k, b⟩ := c
    simp only [Memory.wfFrom, Bool.and_eq_true, decide_eq_true_eq] at h
    have hk : k ≠ a := by omega
    simp only [Memory.read, if_neg hk]
    exact ih h.2 (by omega)

theorem wfFrom_mono {lo lo' : Nat} {m : Memory} (h : Memory.wfFrom lo m) (hl : lo' ≤ lo) : Memory.wfFrom lo' m := by
  cases m with
  | nil => rfl
  | cons c m =>
    simp only [Memory.wfFrom, Bool.and_eq_true, decide_eq_true_eq] at h ⊢
    exact ⟨⟨⟨by omega, h.1.1.2⟩, h.1.2⟩, h.2⟩

theorem read_insert (m : Memory) (a : Nat) (b : Byte) (a' : Nat) :
    (m.insert a b).read a' = if a' = a then b else m.read a' := by
  induction m with
  | nil => simp [Memory.insert, Memory.read, eq_comm]
  | cons c m ih =>
    obtain ⟨k, d⟩ := c
    simp only [Memory.insert]
    split
    · simp [Memory.read, eq_comm]
    · split
      · subst k
        by_cases h : a = a' <;> simp [Memory.read, h, eq_comm]
      · by_cases h : k = a'
        · subst h
          simp [Memory.read, ‹¬a = k›, eq_comm]
        · simp [Memory.read, h, ih]

theorem read_erase {lo : Nat} {m : Memory} (h : Memory.wfFrom lo m) (a a' : Nat) :
    (m.erase a).read a' = if a' = a then Memory.unlisted a else m.read a' := by
  induction m generalizing lo with
  | nil =>
    by_cases h : a' = a <;> simp [Memory.erase, h]
  | cons c m ih =>
    obtain ⟨k, d⟩ := c
    simp only [Memory.wfFrom, Bool.and_eq_true, decide_eq_true_eq] at h
    simp only [Memory.erase]
    split
    · subst k
      by_cases h' : a' = a
      · subst h'
        simp [read_below h.2 (Nat.lt_succ_self _)]
      · have h'' : ¬a = a' := fun e => h' e.symm
        simp [Memory.read, h', h'']
    · by_cases h' : k = a'
      · subst h'
        simp [Memory.read, ‹¬k = a›]
      · simp [Memory.read, h', ih h.2]

/-- A read after a write to the same address gives the value written; every other address reads as before. -/
theorem read_write {m : Memory} (h : m.wf) (a a' : Nat) (b : Byte) :
    (m.write a b).read a' = if a' = a then b else m.read a' := by
  unfold Memory.write
  split
  · rw [read_erase h, ‹b = _›]
  · exact read_insert m a b a'

theorem wfFrom_insert {lo : Nat} {m : Memory} (h : Memory.wfFrom lo m) {a : Nat} {b : Byte} (hlo : lo ≤ a)
    (ha : a < memSize) (hb : b ≠ Memory.unlisted a) : Memory.wfFrom lo (m.insert a b) := by
  induction m generalizing lo with
  | nil => simp [Memory.insert, Memory.wfFrom, *]
  | cons c m ih =>
    obtain ⟨k, d⟩ := c
    simp only [Memory.wfFrom, Bool.and_eq_true, decide_eq_true_eq] at h
    simp only [Memory.insert]
    split
    · simp only [Memory.wfFrom, Bool.and_eq_true, decide_eq_true_eq, bne_iff_ne]
      simp only [bne_iff_ne] at h
      exact ⟨⟨⟨hlo, ha⟩, hb⟩, ⟨⟨by omega, h.1.1.2⟩, h.1.2⟩, h.2⟩
    · split
      · subst k
        simp only [Memory.wfFrom, Bool.and_eq_true, decide_eq_true_eq, bne_iff_ne]
        exact ⟨⟨⟨hlo, ha⟩, hb⟩, h.2⟩
      · simp only [Memory.wfFrom, Bool.and_eq_true, decide_eq_true_eq]
        exact ⟨h.1, ih h.2 (by omega)⟩

theorem wfFrom_erase {lo : Nat} {m : Memory} (h : Memory.wfFrom lo m) (a : Nat) : Memory.wfFrom lo (m.erase a) := by
  induction m generalizing lo with
  | nil => rfl
  | cons c m ih =>
    obtain ⟨k, d⟩ := c
    simp only [Memory.wfFrom, Bool.and_eq_true, decide_eq_true_eq] at h
    simp only [Memory.erase]
    split
    · exact wfFrom_mono h.2 (by omega)
    · simp only [Memory.wfFrom, Bool.and_eq_true, decide_eq_true_eq]
      exact ⟨h.1, ih h.2⟩

/-- A write inside the address space keeps the canonical form. -/
theorem wf_write {m : Memory} (h : m.wf) {a : Nat} (ha : a < memSize) (b : Byte) : (m.write a b).wf := by
  unfold Memory.write
  split
  · exact wfFrom_erase h a
  · exact wfFrom_insert h (Nat.zero_le _) ha ‹_›

/-- A write inside the address space leaves every other address as it was. -/
theorem read_write_other {m : Memory} (h : m.wf) {a a' : Nat} (hne : a' ≠ a) (b : Byte) :
    (m.write a b).read a' = m.read a' := by rw [read_write h, if_neg hne]

theorem mod_lt_memSize (a : Nat) : a % memSize < memSize := Nat.mod_lt _ (by decide)

/-- Storing bytes keeps the canonical form, wherever they go. -/
theorem wf_storeBytes {m : Memory} (h : m.wf) (a : Nat) (bs : List Byte) : (m.storeBytes a bs).wf := by
  induction bs generalizing m a with
  | nil => exact h
  | cons b bs ih => exact ih (wf_write h (mod_lt_memSize a) b) (a + 1)

/-- Storing bytes leaves every address outside them as it was. -/
theorem read_storeBytes_outside {m : Memory} (h : m.wf) {a a' : Nat} {bs : List Byte}
    (hout : ∀ k < bs.length, (a + k) % memSize ≠ a') : (m.storeBytes a bs).read a' = m.read a' := by
  induction bs generalizing m a with
  | nil => rfl
  | cons b bs ih =>
    have h0 : a' ≠ a % memSize := fun e => hout 0 (by simp) (by simpa using e.symm)
    rw [Memory.storeBytes, ih (wf_write h (mod_lt_memSize a) b), read_write_other h h0]
    intro k hk
    have := hout (k + 1) (by simpa using hk)
    rwa [show a + 1 + k = a + (k + 1) by omega]

/-- The bytes stored are read back, as long as no more than the whole memory is stored. -/
theorem read_storeBytes_inside {m : Memory} (h : m.wf) {a : Nat} {bs : List Byte} (hlen : bs.length ≤ memSize)
    {k : Nat} (hk : k < bs.length) : (m.storeBytes a bs).read ((a + k) % memSize) = bs[k] := by
  induction bs generalizing m a k with
  | nil => simp at hk
  | cons b bs ih =>
    have hwf := wf_write h (mod_lt_memSize a) b
    simp only [List.length_cons] at hlen hk
    cases k with
    | zero =>
      rw [Memory.storeBytes, read_storeBytes_outside hwf, read_write h]
      · simp
      · intro k hk'
        unfold memSize at *
        omega
    | succ k =>
      have := ih hwf (a := a + 1) (by omega) (k := k) (by omega)
      rw [show a + 1 + k = a + (k + 1) by omega] at this
      simpa [Memory.storeBytes] using this

theorem reset_wf : State.reset.mem.wf = true := by decide

/-- Two canonical memories that read alike are the same list. -/
theorem ext_of_wf {lo : Nat} {m m' : Memory} (h : Memory.wfFrom lo m) (h' : Memory.wfFrom lo m')
    (heq : ∀ a, m.read a = m'.read a) : m = m' := by
  induction m generalizing lo m' with
  | nil =>
    cases m' with
    | nil => rfl
    | cons c' m' =>
      obtain ⟨k', b'⟩ := c'
      simp only [Memory.wfFrom, Bool.and_eq_true, decide_eq_true_eq, bne_iff_ne] at h'
      exact absurd (by simpa [Memory.read] using (heq k').symm) h'.1.2
  | cons c m ih =>
    obtain ⟨k, b⟩ := c
    have hm := h
    simp only [Memory.wfFrom, Bool.and_eq_true, decide_eq_true_eq, bne_iff_ne] at h
    cases m' with
    | nil => exact absurd (by simpa [Memory.read] using heq k) h.1.2
    | cons c' m' =>
      obtain ⟨k', b'⟩ := c'
      have hm' := h'
      simp only [Memory.wfFrom, Bool.and_eq_true, decide_eq_true_eq, bne_iff_ne] at h'
      have hkk : k = k' := by
        rcases Nat.lt_trichotomy k k' with hlt | heq' | hgt
        · have e := heq k
          rw [read_below (m := (k', b') :: m') (lo := k')
            (by simp only [Memory.wfFrom, Bool.and_eq_true, decide_eq_true_eq, bne_iff_ne]
                exact ⟨⟨⟨Nat.le_refl _, h'.1.1.2⟩, h'.1.2⟩, h'.2⟩) hlt] at e
          exact absurd (by simpa [Memory.read] using e) h.1.2
        · exact heq'
        · have e := heq k'
          rw [read_below (m := (k, b) :: m) (lo := k)
            (by simp only [Memory.wfFrom, Bool.and_eq_true, decide_eq_true_eq, bne_iff_ne]
                exact ⟨⟨⟨Nat.le_refl _, h.1.1.2⟩, h.1.2⟩, h.2⟩) hgt] at e
          exact absurd (by simpa [Memory.read] using e.symm) h'.1.2
      subst hkk
      have hb : b = b' := by simpa [Memory.read] using heq k
      subst hb
      rw [ih h.2 h'.2 fun a => ?_]
      by_cases ha : k = a
      · subst ha
        rw [read_below h.2 (Nat.lt_succ_self _), read_below h'.2 (Nat.lt_succ_self _)]
      · simpa [Memory.read, ha] using heq a

end Memory

/-- Storing bytes leaves every address outside them reading as before. -/
theorem memRead_storeAtI_outside (s : State) (h : s.mem.wf) (bs : List Byte) {a : Nat}
    (ha : a % memSize ∉ s.storedAt bs.length) : (s.storeAtI bs).memRead a = s.memRead a := by
  refine Memory.read_storeBytes_outside h fun k hk e => ha ?_
  exact List.mem_map.2 ⟨k, List.mem_range.2 hk, e⟩

/-- The bytes stored at I are read back. -/
theorem memRead_storeAtI_inside (s : State) (h : s.mem.wf) (bs : List Byte) (hlen : bs.length ≤ memSize) {k : Nat}
    (hk : k < bs.length) : (s.storeAtI bs).memRead (s.i.toNat + k) = bs[k] :=
  Memory.read_storeBytes_inside h hlen hk

end Sys2Proof.Machine
end

