-- ==== Sys2Proof/Laws/State.lean ====
section
/-! SUPPORT. One lemma per field per update of State, and the accessors' laws, so that no proof unfolds a record update. -/

namespace Sys2Proof.Machine

variable (s : State)

@[simp] theorem setReg_config (x : Nibble) (b : Byte) : (s.setReg x b).config = s.config := rfl
@[simp] theorem setReg_v (x : Nibble) (b : Byte) : (s.setReg x b).v = s.v.set x.toNat b x.isLt := rfl
@[simp] theorem setReg_i (x : Nibble) (b : Byte) : (s.setReg x b).i = s.i := rfl
@[simp] theorem setReg_pc (x : Nibble) (b : Byte) : (s.setReg x b).pc = s.pc := rfl
@[simp] theorem setReg_stack (x : Nibble) (b : Byte) : (s.setReg x b).stack = s.stack := rfl
@[simp] theorem setReg_sp (x : Nibble) (b : Byte) : (s.setReg x b).sp = s.sp := rfl
@[simp] theorem setReg_dt (x : Nibble) (b : Byte) : (s.setReg x b).dt = s.dt := rfl
@[simp] theorem setReg_st (x : Nibble) (b : Byte) : (s.setReg x b).st = s.st := rfl
@[simp] theorem setReg_display (x : Nibble) (b : Byte) : (s.setReg x b).display = s.display := rfl
@[simp] theorem setReg_keys (x : Nibble) (b : Byte) : (s.setReg x b).keys = s.keys := rfl
@[simp] theorem setReg_kwReg (x : Nibble) (b : Byte) : (s.setReg x b).kwReg = s.kwReg := rfl
@[simp] theorem setReg_kwKey (x : Nibble) (b : Byte) : (s.setReg x b).kwKey = s.kwKey := rfl
@[simp] theorem setReg_mem (x : Nibble) (b : Byte) : (s.setReg x b).mem = s.mem := rfl
@[simp] theorem setReg_run (x : Nibble) (b : Byte) : (s.setReg x b).run = s.run := rfl
@[simp] theorem setReg_fault (x : Nibble) (b : Byte) : (s.setReg x b).fault = s.fault := rfl
@[simp] theorem setReg_reports (x : Nibble) (b : Byte) : (s.setReg x b).reports = s.reports := rfl
@[simp] theorem setReg_draws (x : Nibble) (b : Byte) : (s.setReg x b).draws = s.draws := rfl

@[simp] theorem setPc_config (w : Word) : (s.setPc w).config = s.config := rfl
@[simp] theorem setPc_v (w : Word) : (s.setPc w).v = s.v := rfl
@[simp] theorem setPc_i (w : Word) : (s.setPc w).i = s.i := rfl
@[simp] theorem setPc_pc (w : Word) : (s.setPc w).pc = w := rfl
@[simp] theorem setPc_stack (w : Word) : (s.setPc w).stack = s.stack := rfl
@[simp] theorem setPc_sp (w : Word) : (s.setPc w).sp = s.sp := rfl
@[simp] theorem setPc_dt (w : Word) : (s.setPc w).dt = s.dt := rfl
@[simp] theorem setPc_st (w : Word) : (s.setPc w).st = s.st := rfl
@[simp] theorem setPc_display (w : Word) : (s.setPc w).display = s.display := rfl
@[simp] theorem setPc_keys (w : Word) : (s.setPc w).keys = s.keys := rfl
@[simp] theorem setPc_kwReg (w : Word) : (s.setPc w).kwReg = s.kwReg := rfl
@[simp] theorem setPc_kwKey (w : Word) : (s.setPc w).kwKey = s.kwKey := rfl
@[simp] theorem setPc_mem (w : Word) : (s.setPc w).mem = s.mem := rfl
@[simp] theorem setPc_run (w : Word) : (s.setPc w).run = s.run := rfl
@[simp] theorem setPc_fault (w : Word) : (s.setPc w).fault = s.fault := rfl
@[simp] theorem setPc_reports (w : Word) : (s.setPc w).reports = s.reports := rfl
@[simp] theorem setPc_draws (w : Word) : (s.setPc w).draws = s.draws := rfl

@[simp] theorem setI_config (w : Word) : (s.setI w).config = s.config := rfl
@[simp] theorem setI_v (w : Word) : (s.setI w).v = s.v := rfl
@[simp] theorem setI_i (w : Word) : (s.setI w).i = w := rfl
@[simp] theorem setI_pc (w : Word) : (s.setI w).pc = s.pc := rfl
@[simp] theorem setI_stack (w : Word) : (s.setI w).stack = s.stack := rfl
@[simp] theorem setI_sp (w : Word) : (s.setI w).sp = s.sp := rfl
@[simp] theorem setI_dt (w : Word) : (s.setI w).dt = s.dt := rfl
@[simp] theorem setI_st (w : Word) : (s.setI w).st = s.st := rfl
@[simp] theorem setI_display (w : Word) : (s.setI w).display = s.display := rfl
@[simp] theorem setI_keys (w : Word) : (s.setI w).keys = s.keys := rfl
@[simp] theorem setI_kwReg (w : Word) : (s.setI w).kwReg = s.kwReg := rfl
@[simp] theorem setI_kwKey (w : Word) : (s.setI w).kwKey = s.kwKey := rfl
@[simp] theorem setI_mem (w : Word) : (s.setI w).mem = s.mem := rfl
@[simp] theorem setI_run (w : Word) : (s.setI w).run = s.run := rfl
@[simp] theorem setI_fault (w : Word) : (s.setI w).fault = s.fault := rfl
@[simp] theorem setI_reports (w : Word) : (s.setI w).reports = s.reports := rfl
@[simp] theorem setI_draws (w : Word) : (s.setI w).draws = s.draws := rfl

@[simp] theorem storeAtI_config (bs : List Byte) : (s.storeAtI bs).config = s.config := rfl
@[simp] theorem storeAtI_v (bs : List Byte) : (s.storeAtI bs).v = s.v := rfl
@[simp] theorem storeAtI_i (bs : List Byte) : (s.storeAtI bs).i = s.i := rfl
@[simp] theorem storeAtI_pc (bs : List Byte) : (s.storeAtI bs).pc = s.pc := rfl
@[simp] theorem storeAtI_stack (bs : List Byte) : (s.storeAtI bs).stack = s.stack := rfl
@[simp] theorem storeAtI_sp (bs : List Byte) : (s.storeAtI bs).sp = s.sp := rfl
@[simp] theorem storeAtI_dt (bs : List Byte) : (s.storeAtI bs).dt = s.dt := rfl
@[simp] theorem storeAtI_st (bs : List Byte) : (s.storeAtI bs).st = s.st := rfl
@[simp] theorem storeAtI_display (bs : List Byte) : (s.storeAtI bs).display = s.display := rfl
@[simp] theorem storeAtI_keys (bs : List Byte) : (s.storeAtI bs).keys = s.keys := rfl
@[simp] theorem storeAtI_kwReg (bs : List Byte) : (s.storeAtI bs).kwReg = s.kwReg := rfl
@[simp] theorem storeAtI_kwKey (bs : List Byte) : (s.storeAtI bs).kwKey = s.kwKey := rfl
@[simp] theorem storeAtI_mem (bs : List Byte) : (s.storeAtI bs).mem = s.mem.storeBytes s.i.toNat bs := rfl
@[simp] theorem storeAtI_run (bs : List Byte) : (s.storeAtI bs).run = s.run := rfl
@[simp] theorem storeAtI_fault (bs : List Byte) : (s.storeAtI bs).fault = s.fault := rfl
@[simp] theorem storeAtI_reports (bs : List Byte) : (s.storeAtI bs).reports = s.reports := rfl
@[simp] theorem storeAtI_draws (bs : List Byte) : (s.storeAtI bs).draws = s.draws := rfl

@[simp] theorem rewind_config : (s.rewind).config = s.config := rfl
@[simp] theorem rewind_v : (s.rewind).v = s.v := rfl
@[simp] theorem rewind_i : (s.rewind).i = s.i := rfl
@[simp] theorem rewind_pc : (s.rewind).pc = s.pc - 2#16 := rfl
@[simp] theorem rewind_stack : (s.rewind).stack = s.stack := rfl
@[simp] theorem rewind_sp : (s.rewind).sp = s.sp := rfl
@[simp] theorem rewind_dt : (s.rewind).dt = s.dt := rfl
@[simp] theorem rewind_st : (s.rewind).st = s.st := rfl
@[simp] theorem rewind_display : (s.rewind).display = s.display := rfl
@[simp] theorem rewind_keys : (s.rewind).keys = s.keys := rfl
@[simp] theorem rewind_kwReg : (s.rewind).kwReg = s.kwReg := rfl
@[simp] theorem rewind_kwKey : (s.rewind).kwKey = s.kwKey := rfl
@[simp] theorem rewind_mem : (s.rewind).mem = s.mem := rfl
@[simp] theorem rewind_run : (s.rewind).run = s.run := rfl
@[simp] theorem rewind_fault : (s.rewind).fault = s.fault := rfl
@[simp] theorem rewind_reports : (s.rewind).reports = s.reports := rfl
@[simp] theorem rewind_draws : (s.rewind).draws = s.draws := rfl

@[simp] theorem advancePc_config : (s.advancePc).config = s.config := rfl
@[simp] theorem advancePc_v : (s.advancePc).v = s.v := rfl
@[simp] theorem advancePc_i : (s.advancePc).i = s.i := rfl
@[simp] theorem advancePc_pc : (s.advancePc).pc = s.pc + 2#16 := rfl
@[simp] theorem advancePc_stack : (s.advancePc).stack = s.stack := rfl
@[simp] theorem advancePc_sp : (s.advancePc).sp = s.sp := rfl
@[simp] theorem advancePc_dt : (s.advancePc).dt = s.dt := rfl
@[simp] theorem advancePc_st : (s.advancePc).st = s.st := rfl
@[simp] theorem advancePc_display : (s.advancePc).display = s.display := rfl
@[simp] theorem advancePc_keys : (s.advancePc).keys = s.keys := rfl
@[simp] theorem advancePc_kwReg : (s.advancePc).kwReg = s.kwReg := rfl
@[simp] theorem advancePc_kwKey : (s.advancePc).kwKey = s.kwKey := rfl
@[simp] theorem advancePc_mem : (s.advancePc).mem = s.mem := rfl
@[simp] theorem advancePc_run : (s.advancePc).run = s.run := rfl
@[simp] theorem advancePc_fault : (s.advancePc).fault = s.fault := rfl
@[simp] theorem advancePc_reports : (s.advancePc).reports = s.reports := rfl
@[simp] theorem advancePc_draws : (s.advancePc).draws = s.draws := rfl

@[simp] theorem setRegThenVF_config (x : Nibble) (b f : Byte) : (s.setRegThenVF x b f).config = s.config := rfl
@[simp] theorem setRegThenVF_i (x : Nibble) (b f : Byte) : (s.setRegThenVF x b f).i = s.i := rfl
@[simp] theorem setRegThenVF_pc (x : Nibble) (b f : Byte) : (s.setRegThenVF x b f).pc = s.pc := rfl
@[simp] theorem setRegThenVF_stack (x : Nibble) (b f : Byte) : (s.setRegThenVF x b f).stack = s.stack := rfl
@[simp] theorem setRegThenVF_sp (x : Nibble) (b f : Byte) : (s.setRegThenVF x b f).sp = s.sp := rfl
@[simp] theorem setRegThenVF_dt (x : Nibble) (b f : Byte) : (s.setRegThenVF x b f).dt = s.dt := rfl
@[simp] theorem setRegThenVF_st (x : Nibble) (b f : Byte) : (s.setRegThenVF x b f).st = s.st := rfl
@[simp] theorem setRegThenVF_display (x : Nibble) (b f : Byte) : (s.setRegThenVF x b f).display = s.display := rfl
@[simp] theorem setRegThenVF_keys (x : Nibble) (b f : Byte) : (s.setRegThenVF x b f).keys = s.keys := rfl
@[simp] theorem setRegThenVF_kwReg (x : Nibble) (b f : Byte) : (s.setRegThenVF x b f).kwReg = s.kwReg := rfl
@[simp] theorem setRegThenVF_kwKey (x : Nibble) (b f : Byte) : (s.setRegThenVF x b f).kwKey = s.kwKey := rfl
@[simp] theorem setRegThenVF_mem (x : Nibble) (b f : Byte) : (s.setRegThenVF x b f).mem = s.mem := rfl
@[simp] theorem setRegThenVF_run (x : Nibble) (b f : Byte) : (s.setRegThenVF x b f).run = s.run := rfl
@[simp] theorem setRegThenVF_fault (x : Nibble) (b f : Byte) : (s.setRegThenVF x b f).fault = s.fault := rfl
@[simp] theorem setRegThenVF_reports (x : Nibble) (b f : Byte) : (s.setRegThenVF x b f).reports = s.reports := rfl
@[simp] theorem setRegThenVF_draws (x : Nibble) (b f : Byte) : (s.setRegThenVF x b f).draws = s.draws := rfl

@[simp] theorem rndWith_config (r : Byte) (x : Nibble) (nn : Byte) : (rndWith r x nn s).config = s.config := rfl
@[simp] theorem rndWith_v (r : Byte) (x : Nibble) (nn : Byte) : (rndWith r x nn s).v = s.v.set x.toNat (r &&& nn) x.isLt := rfl
@[simp] theorem rndWith_i (r : Byte) (x : Nibble) (nn : Byte) : (rndWith r x nn s).i = s.i := rfl
@[simp] theorem rndWith_pc (r : Byte) (x : Nibble) (nn : Byte) : (rndWith r x nn s).pc = s.pc := rfl
@[simp] theorem rndWith_stack (r : Byte) (x : Nibble) (nn : Byte) : (rndWith r x nn s).stack = s.stack := rfl
@[simp] theorem rndWith_sp (r : Byte) (x : Nibble) (nn : Byte) : (rndWith r x nn s).sp = s.sp := rfl
@[simp] theorem rndWith_dt (r : Byte) (x : Nibble) (nn : Byte) : (rndWith r x nn s).dt = s.dt := rfl
@[simp] theorem rndWith_st (r : Byte) (x : Nibble) (nn : Byte) : (rndWith r x nn s).st = s.st := rfl
@[simp] theorem rndWith_display (r : Byte) (x : Nibble) (nn : Byte) : (rndWith r x nn s).display = s.display := rfl
@[simp] theorem rndWith_keys (r : Byte) (x : Nibble) (nn : Byte) : (rndWith r x nn s).keys = s.keys := rfl
@[simp] theorem rndWith_kwReg (r : Byte) (x : Nibble) (nn : Byte) : (rndWith r x nn s).kwReg = s.kwReg := rfl
@[simp] theorem rndWith_kwKey (r : Byte) (x : Nibble) (nn : Byte) : (rndWith r x nn s).kwKey = s.kwKey := rfl
@[simp] theorem rndWith_mem (r : Byte) (x : Nibble) (nn : Byte) : (rndWith r x nn s).mem = s.mem := rfl
@[simp] theorem rndWith_run (r : Byte) (x : Nibble) (nn : Byte) : (rndWith r x nn s).run = s.run := rfl
@[simp] theorem rndWith_fault (r : Byte) (x : Nibble) (nn : Byte) : (rndWith r x nn s).fault = s.fault := rfl
@[simp] theorem rndWith_reports (r : Byte) (x : Nibble) (nn : Byte) : (rndWith r x nn s).reports = s.reports := rfl
@[simp] theorem rndWith_draws (r : Byte) (x : Nibble) (nn : Byte) : (rndWith r x nn s).draws = s.draws + 1 := rfl

@[simp] theorem setRun_config (r : RunState) : (s.setRun r).config = s.config := rfl
@[simp] theorem setRun_v (r : RunState) : (s.setRun r).v = s.v := rfl
@[simp] theorem setRun_i (r : RunState) : (s.setRun r).i = s.i := rfl
@[simp] theorem setRun_pc (r : RunState) : (s.setRun r).pc = s.pc := rfl
@[simp] theorem setRun_stack (r : RunState) : (s.setRun r).stack = s.stack := rfl
@[simp] theorem setRun_sp (r : RunState) : (s.setRun r).sp = s.sp := rfl
@[simp] theorem setRun_dt (r : RunState) : (s.setRun r).dt = s.dt := rfl
@[simp] theorem setRun_st (r : RunState) : (s.setRun r).st = s.st := rfl
@[simp] theorem setRun_display (r : RunState) : (s.setRun r).display = s.display := rfl
@[simp] theorem setRun_keys (r : RunState) : (s.setRun r).keys = s.keys := rfl
@[simp] theorem setRun_kwReg (r : RunState) : (s.setRun r).kwReg = s.kwReg := rfl
@[simp] theorem setRun_kwKey (r : RunState) : (s.setRun r).kwKey = s.kwKey := rfl
@[simp] theorem setRun_mem (r : RunState) : (s.setRun r).mem = s.mem := rfl
@[simp] theorem setRun_run (r : RunState) : (s.setRun r).run = r := rfl
@[simp] theorem setRun_fault (r : RunState) : (s.setRun r).fault = s.fault := rfl
@[simp] theorem setRun_reports (r : RunState) : (s.setRun r).reports = s.reports := rfl
@[simp] theorem setRun_draws (r : RunState) : (s.setRun r).draws = s.draws := rfl

@[simp] theorem tick_config : (tick s).config = s.config := rfl
@[simp] theorem tick_v : (tick s).v = s.v := rfl
@[simp] theorem tick_i : (tick s).i = s.i := rfl
@[simp] theorem tick_pc : (tick s).pc = s.pc := rfl
@[simp] theorem tick_stack : (tick s).stack = s.stack := rfl
@[simp] theorem tick_sp : (tick s).sp = s.sp := rfl
@[simp] theorem tick_dt : (tick s).dt = decTimer s.dt := rfl
@[simp] theorem tick_st : (tick s).st = decTimer s.st := rfl
@[simp] theorem tick_display : (tick s).display = s.display := rfl
@[simp] theorem tick_keys : (tick s).keys = s.keys := rfl
@[simp] theorem tick_kwReg : (tick s).kwReg = s.kwReg := rfl
@[simp] theorem tick_kwKey : (tick s).kwKey = s.kwKey := rfl
@[simp] theorem tick_mem : (tick s).mem = s.mem := rfl
@[simp] theorem tick_run : (tick s).run = s.run := rfl
@[simp] theorem tick_fault : (tick s).fault = s.fault := rfl
@[simp] theorem tick_reports : (tick s).reports = s.reports := rfl
@[simp] theorem tick_draws : (tick s).draws = s.draws := rfl

@[simp] theorem keyEvent_config (k : Nibble) (p : Bool) : (keyEvent k p s).config = s.config := rfl
@[simp] theorem keyEvent_v (k : Nibble) (p : Bool) : (keyEvent k p s).v = s.v := rfl
@[simp] theorem keyEvent_i (k : Nibble) (p : Bool) : (keyEvent k p s).i = s.i := rfl
@[simp] theorem keyEvent_pc (k : Nibble) (p : Bool) : (keyEvent k p s).pc = s.pc := rfl
@[simp] theorem keyEvent_stack (k : Nibble) (p : Bool) : (keyEvent k p s).stack = s.stack := rfl
@[simp] theorem keyEvent_sp (k : Nibble) (p : Bool) : (keyEvent k p s).sp = s.sp := rfl
@[simp] theorem keyEvent_dt (k : Nibble) (p : Bool) : (keyEvent k p s).dt = s.dt := rfl
@[simp] theorem keyEvent_st (k : Nibble) (p : Bool) : (keyEvent k p s).st = s.st := rfl
@[simp] theorem keyEvent_display (k : Nibble) (p : Bool) : (keyEvent k p s).display = s.display := rfl
@[simp] theorem keyEvent_keys (k : Nibble) (p : Bool) : (keyEvent k p s).keys = s.keys.set k.toNat p k.isLt := rfl
@[simp] theorem keyEvent_kwReg (k : Nibble) (p : Bool) : (keyEvent k p s).kwReg = s.kwReg := rfl
@[simp] theorem keyEvent_kwKey (k : Nibble) (p : Bool) : (keyEvent k p s).kwKey = s.kwKey := rfl
@[simp] theorem keyEvent_mem (k : Nibble) (p : Bool) : (keyEvent k p s).mem = s.mem := rfl
@[simp] theorem keyEvent_run (k : Nibble) (p : Bool) : (keyEvent k p s).run = s.run := rfl
@[simp] theorem keyEvent_fault (k : Nibble) (p : Bool) : (keyEvent k p s).fault = s.fault := rfl
@[simp] theorem keyEvent_reports (k : Nibble) (p : Bool) : (keyEvent k p s).reports = s.reports := rfl
@[simp] theorem keyEvent_draws (k : Nibble) (p : Bool) : (keyEvent k p s).draws = s.draws := rfl

@[simp] theorem withFetchWord_config (n w : Nat) : (s.withFetchWord n w).config = s.config := rfl
@[simp] theorem withFetchWord_v (n w : Nat) : (s.withFetchWord n w).v = s.v := rfl
@[simp] theorem withFetchWord_i (n w : Nat) : (s.withFetchWord n w).i = s.i := rfl
@[simp] theorem withFetchWord_pc (n w : Nat) : (s.withFetchWord n w).pc = s.pc := rfl
@[simp] theorem withFetchWord_stack (n w : Nat) : (s.withFetchWord n w).stack = s.stack := rfl
@[simp] theorem withFetchWord_sp (n w : Nat) : (s.withFetchWord n w).sp = s.sp := rfl
@[simp] theorem withFetchWord_dt (n w : Nat) : (s.withFetchWord n w).dt = s.dt := rfl
@[simp] theorem withFetchWord_st (n w : Nat) : (s.withFetchWord n w).st = s.st := rfl
@[simp] theorem withFetchWord_display (n w : Nat) : (s.withFetchWord n w).display = s.display := rfl
@[simp] theorem withFetchWord_keys (n w : Nat) : (s.withFetchWord n w).keys = s.keys := rfl
@[simp] theorem withFetchWord_kwReg (n w : Nat) : (s.withFetchWord n w).kwReg = s.kwReg := rfl
@[simp] theorem withFetchWord_kwKey (n w : Nat) : (s.withFetchWord n w).kwKey = s.kwKey := rfl
@[simp] theorem withFetchWord_mem (n w : Nat) : (s.withFetchWord n w).mem = s.mem.storeBytes s.pc.toNat (tableWordBytes n w) := rfl
@[simp] theorem withFetchWord_run (n w : Nat) : (s.withFetchWord n w).run = .running := rfl
@[simp] theorem withFetchWord_fault (n w : Nat) : (s.withFetchWord n w).fault = none := rfl
@[simp] theorem withFetchWord_reports (n w : Nat) : (s.withFetchWord n w).reports = s.reports := rfl
@[simp] theorem withFetchWord_draws (n w : Nat) : (s.withFetchWord n w).draws = s.draws := rfl

@[simp] theorem skipIf_config (c : Bool) : (s.skipIf c).config = s.config := by
  cases c <;> rfl
@[simp] theorem skipIf_v (c : Bool) : (s.skipIf c).v = s.v := by
  cases c <;> rfl
@[simp] theorem skipIf_i (c : Bool) : (s.skipIf c).i = s.i := by
  cases c <;> rfl
@[simp] theorem skipIf_stack (c : Bool) : (s.skipIf c).stack = s.stack := by
  cases c <;> rfl
@[simp] theorem skipIf_sp (c : Bool) : (s.skipIf c).sp = s.sp := by
  cases c <;> rfl
@[simp] theorem skipIf_dt (c : Bool) : (s.skipIf c).dt = s.dt := by
  cases c <;> rfl
@[simp] theorem skipIf_st (c : Bool) : (s.skipIf c).st = s.st := by
  cases c <;> rfl
@[simp] theorem skipIf_display (c : Bool) : (s.skipIf c).display = s.display := by
  cases c <;> rfl
@[simp] theorem skipIf_keys (c : Bool) : (s.skipIf c).keys = s.keys := by
  cases c <;> rfl
@[simp] theorem skipIf_kwReg (c : Bool) : (s.skipIf c).kwReg = s.kwReg := by
  cases c <;> rfl
@[simp] theorem skipIf_kwKey (c : Bool) : (s.skipIf c).kwKey = s.kwKey := by
  cases c <;> rfl
@[simp] theorem skipIf_mem (c : Bool) : (s.skipIf c).mem = s.mem := by
  cases c <;> rfl
@[simp] theorem skipIf_run (c : Bool) : (s.skipIf c).run = s.run := by
  cases c <;> rfl
@[simp] theorem skipIf_fault (c : Bool) : (s.skipIf c).fault = s.fault := by
  cases c <;> rfl
@[simp] theorem skipIf_reports (c : Bool) : (s.skipIf c).reports = s.reports := by
  cases c <;> rfl
@[simp] theorem skipIf_draws (c : Bool) : (s.skipIf c).draws = s.draws := by
  cases c <;> rfl

@[simp] theorem setLogic_config (x : Nibble) (b : Byte) : (s.setLogic x b).config = s.config := by
  unfold State.setLogic; split <;> rfl
@[simp] theorem setLogic_i (x : Nibble) (b : Byte) : (s.setLogic x b).i = s.i := by
  unfold State.setLogic; split <;> rfl
@[simp] theorem setLogic_pc (x : Nibble) (b : Byte) : (s.setLogic x b).pc = s.pc := by
  unfold State.setLogic; split <;> rfl
@[simp] theorem setLogic_stack (x : Nibble) (b : Byte) : (s.setLogic x b).stack = s.stack := by
  unfold State.setLogic; split <;> rfl
@[simp] theorem setLogic_sp (x : Nibble) (b : Byte) : (s.setLogic x b).sp = s.sp := by
  unfold State.setLogic; split <;> rfl
@[simp] theorem setLogic_dt (x : Nibble) (b : Byte) : (s.setLogic x b).dt = s.dt := by
  unfold State.setLogic; split <;> rfl
@[simp] theorem setLogic_st (x : Nibble) (b : Byte) : (s.setLogic x b).st = s.st := by
  unfold State.setLogic; split <;> rfl
@[simp] theorem setLogic_display (x : Nibble) (b : Byte) : (s.setLogic x b).display = s.display := by
  unfold State.setLogic; split <;> rfl
@[simp] theorem setLogic_keys (x : Nibble) (b : Byte) : (s.setLogic x b).keys = s.keys := by
  unfold State.setLogic; split <;> rfl
@[simp] theorem setLogic_kwReg (x : Nibble) (b : Byte) : (s.setLogic x b).kwReg = s.kwReg := by
  unfold State.setLogic; split <;> rfl
@[simp] theorem setLogic_kwKey (x : Nibble) (b : Byte) : (s.setLogic x b).kwKey = s.kwKey := by
  unfold State.setLogic; split <;> rfl
@[simp] theorem setLogic_mem (x : Nibble) (b : Byte) : (s.setLogic x b).mem = s.mem := by
  unfold State.setLogic; split <;> rfl
@[simp] theorem setLogic_run (x : Nibble) (b : Byte) : (s.setLogic x b).run = s.run := by
  unfold State.setLogic; split <;> rfl
@[simp] theorem setLogic_fault (x : Nibble) (b : Byte) : (s.setLogic x b).fault = s.fault := by
  unfold State.setLogic; split <;> rfl
@[simp] theorem setLogic_reports (x : Nibble) (b : Byte) : (s.setLogic x b).reports = s.reports := by
  unfold State.setLogic; split <;> rfl
@[simp] theorem setLogic_draws (x : Nibble) (b : Byte) : (s.setLogic x b).draws = s.draws := by
  unfold State.setLogic; split <;> rfl

@[simp] theorem advanceIndex_config (x : Nibble) : (s.advanceIndex x).config = s.config := by
  unfold State.advanceIndex; split <;> rfl
@[simp] theorem advanceIndex_v (x : Nibble) : (s.advanceIndex x).v = s.v := by
  unfold State.advanceIndex; split <;> rfl
@[simp] theorem advanceIndex_pc (x : Nibble) : (s.advanceIndex x).pc = s.pc := by
  unfold State.advanceIndex; split <;> rfl
@[simp] theorem advanceIndex_stack (x : Nibble) : (s.advanceIndex x).stack = s.stack := by
  unfold State.advanceIndex; split <;> rfl
@[simp] theorem advanceIndex_sp (x : Nibble) : (s.advanceIndex x).sp = s.sp := by
  unfold State.advanceIndex; split <;> rfl
@[simp] theorem advanceIndex_dt (x : Nibble) : (s.advanceIndex x).dt = s.dt := by
  unfold State.advanceIndex; split <;> rfl
@[simp] theorem advanceIndex_st (x : Nibble) : (s.advanceIndex x).st = s.st := by
  unfold State.advanceIndex; split <;> rfl
@[simp] theorem advanceIndex_display (x : Nibble) : (s.advanceIndex x).display = s.display := by
  unfold State.advanceIndex; split <;> rfl
@[simp] theorem advanceIndex_keys (x : Nibble) : (s.advanceIndex x).keys = s.keys := by
  unfold State.advanceIndex; split <;> rfl
@[simp] theorem advanceIndex_kwReg (x : Nibble) : (s.advanceIndex x).kwReg = s.kwReg := by
  unfold State.advanceIndex; split <;> rfl
@[simp] theorem advanceIndex_kwKey (x : Nibble) : (s.advanceIndex x).kwKey = s.kwKey := by
  unfold State.advanceIndex; split <;> rfl
@[simp] theorem advanceIndex_mem (x : Nibble) : (s.advanceIndex x).mem = s.mem := by
  unfold State.advanceIndex; split <;> rfl
@[simp] theorem advanceIndex_run (x : Nibble) : (s.advanceIndex x).run = s.run := by
  unfold State.advanceIndex; split <;> rfl
@[simp] theorem advanceIndex_fault (x : Nibble) : (s.advanceIndex x).fault = s.fault := by
  unfold State.advanceIndex; split <;> rfl
@[simp] theorem advanceIndex_reports (x : Nibble) : (s.advanceIndex x).reports = s.reports := by
  unfold State.advanceIndex; split <;> rfl
@[simp] theorem advanceIndex_draws (x : Nibble) : (s.advanceIndex x).draws = s.draws := by
  unfold State.advanceIndex; split <;> rfl

@[simp] theorem skipIf_pc (c : Bool) : (s.skipIf c).pc = if c then s.pc + 2#16 else s.pc := by
  cases c <;> rfl

@[simp] theorem advanceIndex_i (x : Nibble) :
    (s.advanceIndex x).i =
      if s.config.quirkMemIncrementI then BitVec.ofNat 16 (s.i.toNat + x.toNat + 1) else s.i := by
  unfold State.advanceIndex
  split <;> rfl

/-! Registers. -/

theorem reg_mk_eq (t : State) (h : t.v = s.v) (z : Nibble) : t.reg z = s.reg z := by
  simp only [State.reg, h]

theorem reg_setReg (x z : Nibble) (b : Byte) : (s.setReg x b).reg z = if z = x then b else s.reg z := by
  simp only [State.reg, setReg_v, Vector.getElem_set]
  by_cases h : z = x
  · simp [h]
  · rw [if_neg h, if_neg fun e => h (BitVec.eq_of_toNat_eq e.symm)]

@[simp] theorem reg_setReg_same (x : Nibble) (b : Byte) : (s.setReg x b).reg x = b := by simp [reg_setReg]

@[simp] theorem reg_setReg_other (x z : Nibble) (b : Byte) (h : z ≠ x) : (s.setReg x b).reg z = s.reg z := by
  simp [reg_setReg, h]

/-- VF is written last, so it holds the flag whatever X is (R140). -/
theorem reg_setRegThenVF (x z : Nibble) (b f : Byte) :
    (s.setRegThenVF x b f).reg z = if z = vfIndex then f else if z = x then b else s.reg z := by
  simp [State.setRegThenVF, reg_setReg]

theorem reg_setLogic (x z : Nibble) (b : Byte) :
    (s.setLogic x b).reg z =
      if s.config.quirkLogicResetsVF ∧ z = vfIndex then 0x00#8 else if z = x then b else s.reg z := by
  unfold State.setLogic
  split
  · simp [reg_setRegThenVF, *]
  · simp [reg_setReg, *]

theorem reg_rndWith (r : Byte) (x z : Nibble) (nn : Byte) :
    (rndWith r x nn s).reg z = if z = x then r &&& nn else s.reg z :=
  reg_setReg s x z (r &&& nn)

@[simp] theorem reg_setPc (w : Word) (z : Nibble) : (s.setPc w).reg z = s.reg z := rfl
@[simp] theorem reg_setI (w : Word) (z : Nibble) : (s.setI w).reg z = s.reg z := rfl
@[simp] theorem reg_storeAtI (bs : List Byte) (z : Nibble) : (s.storeAtI bs).reg z = s.reg z := rfl
@[simp] theorem reg_rewind (z : Nibble) : (s.rewind).reg z = s.reg z := rfl
@[simp] theorem reg_advancePc (z : Nibble) : (s.advancePc).reg z = s.reg z := rfl
@[simp] theorem reg_setRun (r : RunState) (z : Nibble) : (s.setRun r).reg z = s.reg z := rfl
@[simp] theorem reg_tick (z : Nibble) : (tick s).reg z = s.reg z := rfl
@[simp] theorem reg_keyEvent (k : Nibble) (p : Bool) (z : Nibble) : (keyEvent k p s).reg z = s.reg z := rfl
@[simp] theorem reg_withFetchWord (n w : Nat) (z : Nibble) : (s.withFetchWord n w).reg z = s.reg z := rfl
@[simp] theorem reg_skipIf (c : Bool) (z : Nibble) : (s.skipIf c).reg z = s.reg z := by simp [State.reg]
@[simp] theorem reg_advanceIndex (x : Nibble) (z : Nibble) : (s.advanceIndex x).reg z = s.reg z := by simp [State.reg]

/-! Memory reads and key reads see only their own field. -/

@[simp] theorem memRead_setReg (x : Nibble) (b : Byte) (a : Nat) : (s.setReg x b).memRead a = s.memRead a := rfl
@[simp] theorem memRead_setPc (w : Word) (a : Nat) : (s.setPc w).memRead a = s.memRead a := rfl
@[simp] theorem memRead_setI (w : Word) (a : Nat) : (s.setI w).memRead a = s.memRead a := rfl
@[simp] theorem memRead_rewind (a : Nat) : (s.rewind).memRead a = s.memRead a := rfl
@[simp] theorem memRead_advancePc (a : Nat) : (s.advancePc).memRead a = s.memRead a := rfl
@[simp] theorem memRead_setRegThenVF (x : Nibble) (b f : Byte) (a : Nat) : (s.setRegThenVF x b f).memRead a = s.memRead a := rfl
@[simp] theorem memRead_rndWith (r : Byte) (x : Nibble) (nn : Byte) (a : Nat) : (rndWith r x nn s).memRead a = s.memRead a := rfl
@[simp] theorem memRead_setRun (r : RunState) (a : Nat) : (s.setRun r).memRead a = s.memRead a := rfl
@[simp] theorem memRead_tick (a : Nat) : (tick s).memRead a = s.memRead a := rfl
@[simp] theorem memRead_keyEvent (k : Nibble) (p : Bool) (a : Nat) : (keyEvent k p s).memRead a = s.memRead a := rfl
@[simp] theorem memRead_skipIf (c : Bool) (a : Nat) : (s.skipIf c).memRead a = s.memRead a := by simp [State.memRead]
@[simp] theorem memRead_setLogic (x : Nibble) (b : Byte) (a : Nat) : (s.setLogic x b).memRead a = s.memRead a := by simp [State.memRead]
@[simp] theorem memRead_advanceIndex (x : Nibble) (a : Nat) : (s.advanceIndex x).memRead a = s.memRead a := by simp [State.memRead]

/-! Fetch and PC. -/

@[simp] theorem advancePc_rewind : s.advancePc.rewind = s := by simp [State.advancePc, State.rewind, State.setPc]

theorem wordAt_congr (t : State) (h : t.mem = s.mem) (a : Word) : t.wordAt a = s.wordAt a := by
  simp [State.wordAt, State.memRead, h]

/-! Key and display reads see only their own fields. -/

@[simp] theorem keyPressed_setReg (x : Nibble) (b : Byte) (k : Nibble) : (s.setReg x b).keyPressed k = s.keyPressed k := by
  simp [State.keyPressed]
@[simp] theorem keyPressed_setPc (w : Word) (k : Nibble) : (s.setPc w).keyPressed k = s.keyPressed k := by
  simp [State.keyPressed]
@[simp] theorem keyPressed_setI (w : Word) (k : Nibble) : (s.setI w).keyPressed k = s.keyPressed k := by
  simp [State.keyPressed]
@[simp] theorem keyPressed_storeAtI (bs : List Byte) (k : Nibble) : (s.storeAtI bs).keyPressed k = s.keyPressed k := by
  simp [State.keyPressed]
@[simp] theorem keyPressed_rewind (k : Nibble) : (s.rewind).keyPressed k = s.keyPressed k := by
  simp [State.keyPressed]
@[simp] theorem keyPressed_advancePc (k : Nibble) : (s.advancePc).keyPressed k = s.keyPressed k := by
  simp [State.keyPressed]
@[simp] theorem keyPressed_setRegThenVF (x : Nibble) (b f : Byte) (k : Nibble) : (s.setRegThenVF x b f).keyPressed k = s.keyPressed k := by
  simp [State.keyPressed]
@[simp] theorem keyPressed_rndWith (r : Byte) (x : Nibble) (nn : Byte) (k : Nibble) : (rndWith r x nn s).keyPressed k = s.keyPressed k := by
  simp [State.keyPressed]
@[simp] theorem keyPressed_setRun (r : RunState) (k : Nibble) : (s.setRun r).keyPressed k = s.keyPressed k := by
  simp [State.keyPressed]
@[simp] theorem keyPressed_tick (k : Nibble) : (tick s).keyPressed k = s.keyPressed k := by
  simp [State.keyPressed]
@[simp] theorem keyPressed_skipIf (c : Bool) (k : Nibble) : (s.skipIf c).keyPressed k = s.keyPressed k := by
  simp [State.keyPressed]
@[simp] theorem keyPressed_setLogic (x : Nibble) (b : Byte) (k : Nibble) : (s.setLogic x b).keyPressed k = s.keyPressed k := by
  simp [State.keyPressed]
@[simp] theorem keyPressed_advanceIndex (x : Nibble) (k : Nibble) : (s.advanceIndex x).keyPressed k = s.keyPressed k := by
  simp [State.keyPressed]

@[simp] theorem cell_setReg (x : Nibble) (b : Byte) (cx cy : Nat) : (s.setReg x b).cell cx cy = s.cell cx cy := by
  simp [State.cell]
@[simp] theorem cell_setPc (w : Word) (cx cy : Nat) : (s.setPc w).cell cx cy = s.cell cx cy := by
  simp [State.cell]
@[simp] theorem cell_setI (w : Word) (cx cy : Nat) : (s.setI w).cell cx cy = s.cell cx cy := by
  simp [State.cell]
@[simp] theorem cell_storeAtI (bs : List Byte) (cx cy : Nat) : (s.storeAtI bs).cell cx cy = s.cell cx cy := by
  simp [State.cell]
@[simp] theorem cell_rewind (cx cy : Nat) : (s.rewind).cell cx cy = s.cell cx cy := by
  simp [State.cell]
@[simp] theorem cell_advancePc (cx cy : Nat) : (s.advancePc).cell cx cy = s.cell cx cy := by
  simp [State.cell]
@[simp] theorem cell_setRegThenVF (x : Nibble) (b f : Byte) (cx cy : Nat) : (s.setRegThenVF x b f).cell cx cy = s.cell cx cy := by
  simp [State.cell]
@[simp] theorem cell_rndWith (r : Byte) (x : Nibble) (nn : Byte) (cx cy : Nat) : (rndWith r x nn s).cell cx cy = s.cell cx cy := by
  simp [State.cell]
@[simp] theorem cell_setRun (r : RunState) (cx cy : Nat) : (s.setRun r).cell cx cy = s.cell cx cy := by
  simp [State.cell]
@[simp] theorem cell_tick (cx cy : Nat) : (tick s).cell cx cy = s.cell cx cy := by
  simp [State.cell]
@[simp] theorem cell_skipIf (c : Bool) (cx cy : Nat) : (s.skipIf c).cell cx cy = s.cell cx cy := by
  simp [State.cell]
@[simp] theorem cell_setLogic (x : Nibble) (b : Byte) (cx cy : Nat) : (s.setLogic x b).cell cx cy = s.cell cx cy := by
  simp [State.cell]
@[simp] theorem cell_advanceIndex (x : Nibble) (cx cy : Nat) : (s.advanceIndex x).cell cx cy = s.cell cx cy := by
  simp [State.cell]

/-! The reset state. -/

@[simp] theorem reset_config : State.reset.config = Config.default := rfl
@[simp] theorem reset_i : State.reset.i = 0x0000#16 := rfl
@[simp] theorem reset_pc : State.reset.pc = 0x200#16 := rfl
@[simp] theorem reset_sp : State.reset.sp = 0 := rfl
@[simp] theorem reset_dt : State.reset.dt = 0x00#8 := rfl
@[simp] theorem reset_st : State.reset.st = 0x00#8 := rfl
@[simp] theorem reset_kwReg : State.reset.kwReg = none := rfl
@[simp] theorem reset_kwKey : State.reset.kwKey = none := rfl
@[simp] theorem reset_mem : State.reset.mem = [] := rfl
@[simp] theorem reset_run : State.reset.run = .loading := rfl
@[simp] theorem reset_fault : State.reset.fault = none := rfl
@[simp] theorem reset_reports : State.reset.reports = [] := rfl
@[simp] theorem reset_draws : State.reset.draws = 0 := rfl
theorem reset_display : State.reset.display = List.replicate 2048 false := rfl
@[simp] theorem reset_v : State.reset.v = Vector.replicate 16 0x00#8 := rfl
@[simp] theorem reset_keys : State.reset.keys = Vector.replicate 16 false := rfl
@[simp] theorem reset_stack : State.reset.stack = Vector.replicate 12 0x0000#16 := rfl

@[simp] theorem reset_display_length : State.reset.display.length = 2048 := by
  rw [reset_display, List.length_replicate]

@[simp] theorem reset_cell (cx cy : Nat) : State.reset.cell cx cy = false := by
  rw [State.cell, reset_display, List.getD_eq_getElem?_getD, List.getElem?_replicate]
  split <;> rfl

end Sys2Proof.Machine
end

