-- ==== Sys2Proof/Laws/Ops.lean ====
section
/-! SUPPORT. Everything each shared operation can do, once. -/

namespace Sys2Proof.Machine

variable (s : State)

/-! The call stack. -/

theorem push_of_lt (w : Word) (h : s.sp.val < 12) :
    s.push w = some { s with stack := s.stack.set s.sp.val w h, sp := ⟨s.sp.val + 1, Nat.succ_lt_succ h⟩ } :=
  dif_pos h

theorem push_of_full (w : Word) (h : s.sp.val = 12) : s.push w = none := dif_neg (by omega)

theorem pop_of_pos (k : Nat) (hk : k < 12) (h : s.sp.val = k + 1) :
    s.pop = some (s.stack[k], { s with sp := ⟨k, Nat.lt_of_lt_of_le hk (by decide)⟩ }) := by
  have h0 : 0 < s.sp.val := by omega
  have hk' : s.sp.val - 1 = k := by omega
  rw [State.pop, dif_pos h0]
  simp only [hk']

theorem pop_of_empty (h : s.sp.val = 0) : s.pop = none := dif_neg (by omega)

/-- A push changes the stack and SP alone, or there is no room. -/
theorem push_cases (w : Word) :
    (s.sp.val = 12 ∧ s.push w = none) ∨
    ∃ st sp, s.push w = some { s with stack := st, sp := sp } ∧ sp.val = s.sp.val + 1 := by
  rcases Nat.lt_or_ge s.sp.val 12 with h | h
  · exact .inr ⟨_, _, push_of_lt s w h, rfl⟩
  · exact .inl ⟨by omega, push_of_full s w (by omega)⟩

/-- A pop changes SP alone, or the stack is empty. -/
theorem pop_cases :
    (s.sp.val = 0 ∧ s.pop = none) ∨
    ∃ a sp, s.pop = some (a, { s with sp := sp }) ∧ s.sp.val = sp.val + 1 := by
  rcases Nat.eq_zero_or_pos s.sp.val with h | h
  · exact .inl ⟨h, pop_of_empty s h⟩
  · exact .inr ⟨_, _, dif_pos h, by simp only; omega⟩

/-! Key numbers and the key scan. -/

theorem keyIndex_of_le (c : Config) {b : Byte} (h : b.toNat ≤ 0x0F) : keyIndex c b = .ok (b.setWidth 4) := if_pos h

theorem keyIndex_of_mask {c : Config} (hc : c.keyIndexPolicy = .mask) (b : Byte) :
    keyIndex c b = .ok (b.setWidth 4) := by
  unfold keyIndex
  split
  · rfl
  · rw [hc]

theorem keyIndex_of_gt {c : Config} (hc : c.keyIndexPolicy = .fault) {b : Byte} (h : 0x0F < b.toNat) :
    keyIndex c b = .error .keyIndexRange := by
  rw [keyIndex, if_neg (by omega), hc]

/-- A key number is a key, or raises KEY_INDEX_RANGE. -/
theorem keyIndex_cases (c : Config) (b : Byte) :
    keyIndex c b = .ok (b.setWidth 4) ∨
    (keyIndex c b = .error .keyIndexRange ∧ 0x0F < b.toNat ∧ c.keyIndexPolicy = .fault) := by
  rcases Nat.lt_or_ge 0x0F b.toNat with h | h
  · cases hc : c.keyIndexPolicy with
    | fault => exact .inr ⟨keyIndex_of_gt hc h, h, rfl⟩
    | mask => exact .inl (keyIndex_of_mask hc b)
  · exact .inl (keyIndex_of_le c h)

theorem lowestPressed_none (h : ∀ k, s.keyPressed k = false) : s.lowestPressed = none := by
  have : s.keys.toList.findIdx? (fun p => p) = none := by
    rw [List.findIdx?_eq_none_iff]
    intro p hp
    obtain ⟨j, hj, rfl⟩ := List.mem_iff_getElem.1 hp
    have hj' : j < 16 := by simpa using hj
    have := h (BitVec.ofNat 4 j)
    simpa [State.keyPressed, Nat.mod_eq_of_lt hj'] using this
  rw [State.lowestPressed, this]
  rfl

theorem lowestPressed_some (k : Nibble) (hk : s.keyPressed k = true)
    (hlow : ∀ j : Nibble, j.toNat < k.toNat → s.keyPressed j = false) : s.lowestPressed = some k := by
  have : s.keys.toList.findIdx? (fun p => p) = some k.toNat := by
    rw [List.findIdx?_eq_some_iff_getElem]
    refine ⟨by simpa using k.isLt, by simpa [State.keyPressed] using hk, fun j hj => ?_⟩
    have hj16 : j < 16 := Nat.lt_trans hj k.isLt
    have := hlow (BitVec.ofNat 4 j) (by simpa [Nat.mod_eq_of_lt hj16] using hj)
    simpa [State.keyPressed, Nat.mod_eq_of_lt hj16] using this
  rw [State.lowestPressed, this]
  simp

/-! Loading registers from a list of bytes. -/

/-- The registers from `j` on receive the bytes, in order. -/
theorem reg_setRegsFrom (bs : List Byte) (j : Nat) (h : j + bs.length ≤ 16) (z : Nibble) :
    (s.setRegsFrom j bs).reg z = if j ≤ z.toNat then bs.getD (z.toNat - j) (s.reg z) else s.reg z := by
  induction bs generalizing s j with
  | nil => simp [State.setRegsFrom]
  | cons b bs ih =>
    simp only [List.length_cons] at h
    rw [State.setRegsFrom, ih _ _ (by omega), reg_setReg]
    have hj : (BitVec.ofNat 4 j).toNat = j := Nat.mod_eq_of_lt (by omega)
    by_cases e : z = BitVec.ofNat 4 j
    · subst e
      simp [hj]
    · have ne : z.toNat ≠ j := fun e' => e (BitVec.eq_of_toNat_eq (by rw [hj]; exact e'))
      rw [if_neg e]
      by_cases l : j ≤ z.toNat
      · rw [if_pos (by omega), if_pos l, show z.toNat - j = (z.toNat - (j + 1)) + 1 by omega, List.getD_cons_succ]
      · rw [if_neg (by omega), if_neg l]

/-- Loading registers changes the registers alone. -/
theorem setRegsFrom_eq (bs : List Byte) (j : Nat) : ∃ v, s.setRegsFrom j bs = { s with v := v } := by
  induction bs generalizing s j with
  | nil => exact ⟨s.v, rfl⟩
  | cons b bs ih => exact ih (s.setReg (BitVec.ofNat 4 j) b) (j + 1)

@[simp] theorem bytesAtI_length (n : Nat) : (s.bytesAtI n).length = n := by simp [State.bytesAtI]

theorem bytesAtI_getD (n k : Nat) (b : Byte) :
    (s.bytesAtI n).getD k b = if k < n then s.memRead (s.i.toNat + k) else b := by
  simp only [State.bytesAtI, List.getD_eq_getElem?_getD, List.getElem?_map]
  split
  · simp [*]
  · rw [List.getElem?_eq_none (by simp; omega)]
    rfl

@[simp] theorem regsUpTo_length (x : Nibble) : (s.regsUpTo x).length = x.toNat + 1 := by
  have := x.isLt
  simp only [State.regsUpTo, List.length_take, Vector.length_toList]
  omega

theorem regsUpTo_getElem (x z : Nibble) (h : z.toNat < (s.regsUpTo x).length) : (s.regsUpTo x)[z.toNat] = s.reg z := by
  simp [State.regsUpTo, State.reg]

end Sys2Proof.Machine
end

