-- ==== Sys2Proof/Laws/PerInstr.lean ====
section
/-! SUPPORT. A fact of every instruction as syntax: its word carries the literal bits of its row of the opcode table
(30_encoding.md R75). One lemma per constructor. -/

namespace Sys2Proof

/-- The "match" and "mask" of an instruction's row (R75). -/
def Instr.tableKey : Instr → Word × Word
  | .cls => (0x00E0, 0xFFFF)
  | .ret => (0x00EE, 0xFFFF)
  | .jp _ => (0x1000, 0xF000)
  | .call _ => (0x2000, 0xF000)
  | .seVxNn _ _ => (0x3000, 0xF000)
  | .sneVxNn _ _ => (0x4000, 0xF000)
  | .seVxVy _ _ => (0x5000, 0xF00F)
  | .ldVxNn _ _ => (0x6000, 0xF000)
  | .addVxNn _ _ => (0x7000, 0xF000)
  | .ldVxVy _ _ => (0x8000, 0xF00F)
  | .orVxVy _ _ => (0x8001, 0xF00F)
  | .andVxVy _ _ => (0x8002, 0xF00F)
  | .xorVxVy _ _ => (0x8003, 0xF00F)
  | .addVxVy _ _ => (0x8004, 0xF00F)
  | .sub _ _ => (0x8005, 0xF00F)
  | .shr _ _ => (0x8006, 0xF00F)
  | .subn _ _ => (0x8007, 0xF00F)
  | .shl _ _ => (0x800E, 0xF00F)
  | .sneVxVy _ _ => (0x9000, 0xF00F)
  | .ldINnn _ => (0xA000, 0xF000)
  | .jpVxNnn _ _ => (0xB000, 0xF000)
  | .rnd _ _ => (0xC000, 0xF000)
  | .drw _ _ _ => (0xD000, 0xF000)
  | .skp _ => (0xE09E, 0xF0FF)
  | .sknp _ => (0xE0A1, 0xF0FF)
  | .ldVxDt _ => (0xF007, 0xF0FF)
  | .ldVxK _ => (0xF00A, 0xF0FF)
  | .ldDtVx _ => (0xF015, 0xF0FF)
  | .ldStVx _ => (0xF018, 0xF0FF)
  | .addIVx _ => (0xF01E, 0xF0FF)
  | .ldFVx _ => (0xF029, 0xF0FF)
  | .ldBVx _ => (0xF033, 0xF0FF)
  | .ldMemIVx _ => (0xF055, 0xF0FF)
  | .ldVxMemI _ => (0xF065, 0xF0FF)

namespace Laws.LiteralBits

/-- The word of `i` is selected by the match and mask of its row. -/
def Statement (i : Instr) : Prop := encodeWord i &&& i.tableKey.2 = i.tableKey.1

theorem packXNN_high (op x : Nibble) (nn : Byte) : packXNN op x nn &&& 0xF000#16 = packXNN op 0 0 := by
  ext i h
  interval_cases i <;> simp [packXNN]

theorem packXNN_low (op x : Nibble) (nn : Byte) : packXNN op x nn &&& 0xF0FF#16 = packXNN op 0 nn := by
  ext i h
  interval_cases i <;> simp [packXNN]

theorem packNNN_high (op : Nibble) (nnn : Addr12) : packNNN op nnn &&& 0xF000#16 = packNNN op 0 := by
  ext i h
  interval_cases i <;> simp [packNNN]

theorem packXYN_high (op x y n : Nibble) : packXYN op x y n &&& 0xF000#16 = packXYN op 0 0 0 := by
  ext i h
  interval_cases i <;> simp [packXYN]

theorem packXYN_low (op x y n : Nibble) : packXYN op x y n &&& 0xF00F#16 = packXYN op 0 0 n := by
  ext i h
  interval_cases i <;> simp [packXYN]

theorem cls : Statement .cls := rfl
theorem ret : Statement .ret := rfl
theorem jp (nnn : Addr12) : Statement (.jp nnn) := packNNN_high _ nnn
theorem call (nnn : Addr12) : Statement (.call nnn) := packNNN_high _ nnn
theorem seVxNn (x : Nibble) (nn : Byte) : Statement (.seVxNn x nn) := packXNN_high _ x nn
theorem sneVxNn (x : Nibble) (nn : Byte) : Statement (.sneVxNn x nn) := packXNN_high _ x nn
theorem seVxVy (x : Nibble) (y : Nibble) : Statement (.seVxVy x y) := packXYN_low _ x y _
theorem ldVxNn (x : Nibble) (nn : Byte) : Statement (.ldVxNn x nn) := packXNN_high _ x nn
theorem addVxNn (x : Nibble) (nn : Byte) : Statement (.addVxNn x nn) := packXNN_high _ x nn
theorem ldVxVy (x : Nibble) (y : Nibble) : Statement (.ldVxVy x y) := packXYN_low _ x y _
theorem orVxVy (x : Nibble) (y : Nibble) : Statement (.orVxVy x y) := packXYN_low _ x y _
theorem andVxVy (x : Nibble) (y : Nibble) : Statement (.andVxVy x y) := packXYN_low _ x y _
theorem xorVxVy (x : Nibble) (y : Nibble) : Statement (.xorVxVy x y) := packXYN_low _ x y _
theorem addVxVy (x : Nibble) (y : Nibble) : Statement (.addVxVy x y) := packXYN_low _ x y _
theorem sub (x : Nibble) (y : Nibble) : Statement (.sub x y) := packXYN_low _ x y _
theorem shr (x : Nibble) (y : Nibble) : Statement (.shr x y) := packXYN_low _ x y _
theorem subn (x : Nibble) (y : Nibble) : Statement (.subn x y) := packXYN_low _ x y _
theorem shl (x : Nibble) (y : Nibble) : Statement (.shl x y) := packXYN_low _ x y _
theorem sneVxVy (x : Nibble) (y : Nibble) : Statement (.sneVxVy x y) := packXYN_low _ x y _
theorem ldINnn (nnn : Addr12) : Statement (.ldINnn nnn) := packNNN_high _ nnn
theorem jpVxNnn (x : Nibble) (nnn : Addr12) : Statement (.jpVxNnn x nnn) := packNNN_high _ nnn
theorem rnd (x : Nibble) (nn : Byte) : Statement (.rnd x nn) := packXNN_high _ x nn
theorem drw (x : Nibble) (y : Nibble) (n : Nibble) : Statement (.drw x y n) := packXYN_high _ x y n
theorem skp (x : Nibble) : Statement (.skp x) := packXNN_low _ x _
theorem sknp (x : Nibble) : Statement (.sknp x) := packXNN_low _ x _
theorem ldVxDt (x : Nibble) : Statement (.ldVxDt x) := packXNN_low _ x _
theorem ldVxK (x : Nibble) : Statement (.ldVxK x) := packXNN_low _ x _
theorem ldDtVx (x : Nibble) : Statement (.ldDtVx x) := packXNN_low _ x _
theorem ldStVx (x : Nibble) : Statement (.ldStVx x) := packXNN_low _ x _
theorem addIVx (x : Nibble) : Statement (.addIVx x) := packXNN_low _ x _
theorem ldFVx (x : Nibble) : Statement (.ldFVx x) := packXNN_low _ x _
theorem ldBVx (x : Nibble) : Statement (.ldBVx x) := packXNN_low _ x _
theorem ldMemIVx (x : Nibble) : Statement (.ldMemIVx x) := packXNN_low _ x _
theorem ldVxMemI (x : Nibble) : Statement (.ldVxMemI x) := packXNN_low _ x _

/-- Every instruction's word is selected by its row. -/
theorem all (i : Instr) : Statement i := by
  cases i
  case cls => exact LiteralBits.cls
  case ret => exact LiteralBits.ret
  case jp nnn => exact LiteralBits.jp _
  case call nnn => exact LiteralBits.call _
  case seVxNn x nn => exact LiteralBits.seVxNn _ _
  case sneVxNn x nn => exact LiteralBits.sneVxNn _ _
  case seVxVy x y => exact LiteralBits.seVxVy _ _
  case ldVxNn x nn => exact LiteralBits.ldVxNn _ _
  case addVxNn x nn => exact LiteralBits.addVxNn _ _
  case ldVxVy x y => exact LiteralBits.ldVxVy _ _
  case orVxVy x y => exact LiteralBits.orVxVy _ _
  case andVxVy x y => exact LiteralBits.andVxVy _ _
  case xorVxVy x y => exact LiteralBits.xorVxVy _ _
  case addVxVy x y => exact LiteralBits.addVxVy _ _
  case sub x y => exact LiteralBits.sub _ _
  case shr x y => exact LiteralBits.shr _ _
  case subn x y => exact LiteralBits.subn _ _
  case shl x y => exact LiteralBits.shl _ _
  case sneVxVy x y => exact LiteralBits.sneVxVy _ _
  case ldINnn nnn => exact LiteralBits.ldINnn _
  case jpVxNnn x nnn => exact LiteralBits.jpVxNnn _ _
  case rnd x nn => exact LiteralBits.rnd _ _
  case drw x y n => exact LiteralBits.drw _ _ _
  case skp x => exact LiteralBits.skp _
  case sknp x => exact LiteralBits.sknp _
  case ldVxDt x => exact LiteralBits.ldVxDt _
  case ldVxK x => exact LiteralBits.ldVxK _
  case ldDtVx x => exact LiteralBits.ldDtVx _
  case ldStVx x => exact LiteralBits.ldStVx _
  case addIVx x => exact LiteralBits.addIVx _
  case ldFVx x => exact LiteralBits.ldFVx _
  case ldBVx x => exact LiteralBits.ldBVx _
  case ldMemIVx x => exact LiteralBits.ldMemIVx _
  case ldVxMemI x => exact LiteralBits.ldVxMemI _

end Laws.LiteralBits

end Sys2Proof
end

