-- ==== Sys2Proof/Laws/Step.lean ====
section
/-! SUPPORT. Everything a Step can do, once, and the same for an operation of the host. -/

namespace Sys2Proof.Machine

theorem stepEnabled_iff (s : State) : s.stepEnabled = true ↔ s.run = .running ∧ s.fault = none := by
  simp [State.stepEnabled]

theorem step_of_not_enabled {s : State} (h : s.stepEnabled = false) : step s = .next s := by
  simp [step, h, stepNotAccepted]

/-- A Step that answers `t` was not accepted, or ran the fetched instruction, or reported the fetched word. -/
theorem step_cases {s t : State} (h : step s = .next t) :
    (s.stepEnabled = false ∧ t = s) ∨
    (s.stepEnabled = true ∧ ∃ i, decodeWord s.fetchWord = .ok i ∧ exec i s.advancePc = .next t) ∨
    (s.stepEnabled = true ∧ (∃ e, decodeWord s.fetchWord = .error e) ∧
      t = { s.advancePc with reports := s.reports ++ [⟨s.pc, s.fetchWord⟩] }) := by
  unfold step at h
  split at h
  · rename_i he
    split at h
    · exact .inr (.inl ⟨he, _, ‹_›, h⟩)
    · refine .inr (.inr ⟨he, ⟨_, ‹_›⟩, ?_⟩)
      simp only [reportUnimplemented, Host.Outcome.next.injEq] at h
      simpa using h.symm
  · rename_i he
    refine .inl ⟨Bool.eq_false_iff.2 he, ?_⟩
    simpa [stepNotAccepted] using h.symm

/-- An operation of the host that is not a Step changes nothing but memory and `run` (Load), the timers (Tick), one key
(KeyEvent) or `run` (Pause, Resume, Quit). -/
theorem perform_cases {op : Operation} {s t : State} (hop : op ≠ .step) (h : perform op s = .next t) :
    t = s ∨
    (∃ image, op = .load image ∧ s.run = .loading ∧ image.length ≤ memSize - s.config.entry.toNat ∧
      t = { s with mem := s.mem.storeBytes s.config.entry.toNat image, run := .running }) ∨
    (op = .tick ∧ s.run ≠ .quit ∧ t = tick s) ∨
    (∃ code p, op = .keyEvent code p ∧ s.run ≠ .quit ∧ code < 16 ∧ t = keyEvent (BitVec.ofNat 4 code) p s) ∨
    (op = .pause ∧ s.run = .running ∧ t = s.setRun .paused) ∨
    (op = .resume ∧ s.run = .paused ∧ t = s.setRun .running) ∨
    (op = .quit ∧ s.run ≠ .quit ∧ t = s.setRun .quit) := by
  cases op with
  | step => exact absurd rfl hop
  | load image =>
    by_cases hr : s.run = .loading
    · by_cases hl : memSize - s.config.entry.toNat < image.length
      · simp only [perform, loadProgram, if_pos hr, if_pos hl, Host.Outcome.next.injEq] at h
        exact .inl h.symm
      · simp only [perform, loadProgram, if_pos hr, if_neg hl, Host.Outcome.next.injEq] at h
        exact .inr (.inl ⟨image, rfl, hr, by omega, h.symm⟩)
    · simp only [perform, loadProgram, if_neg hr, Host.Outcome.next.injEq] at h
      exact .inl h.symm
  | tick =>
    simp only [perform, Host.Outcome.next.injEq] at h
    split at h
    · rename_i ha
      exact .inr (.inr (.inl ⟨rfl, by simpa [accepts] using ha, h.symm⟩))
    · exact .inl h.symm
  | keyEvent code p =>
    simp only [perform, Host.Outcome.next.injEq] at h
    split at h
    · rename_i ha
      simp only [accepts, Bool.and_eq_true, bne_iff_ne, decide_eq_true_eq] at ha
      exact .inr (.inr (.inr (.inl ⟨code, p, rfl, ha.1, ha.2, h.symm⟩)))
    · exact .inl h.symm
  | pause =>
    simp only [perform, Host.Outcome.next.injEq] at h
    split at h
    · rename_i ha
      exact .inr (.inr (.inr (.inr (.inl ⟨rfl, by simpa [accepts] using ha, h.symm⟩))))
    · exact .inl h.symm
  | resume =>
    simp only [perform, Host.Outcome.next.injEq] at h
    split at h
    · rename_i ha
      exact .inr (.inr (.inr (.inr (.inr (.inl ⟨rfl, by simpa [accepts] using ha, h.symm⟩)))))
    · exact .inl h.symm
  | quit =>
    simp only [perform, Host.Outcome.next.injEq] at h
    split at h
    · rename_i ha
      exact .inr (.inr (.inr (.inr (.inr (.inr ⟨rfl, by simpa [accepts] using ha, h.symm⟩)))))
    · exact .inl h.symm
  | inspect =>
    simp only [perform, Host.Outcome.next.injEq] at h
    exact .inl h.symm

end Sys2Proof.Machine
end

