-- ==== Sys2Proof/Laws/Exec.lean ====
section
/-! SUPPORT. Everything the meanings that have more than one outcome can do, once; every other meaning is a single
update and unfolds by `rfl`. -/

namespace Sys2Proof.Machine

variable {s t : State}

/-- 00EE pops, or takes STACK_UNDERFLOW. -/
theorem exec_ret_cases (h : exec .ret s = .next t) :
    (∃ a sp, s.sp.val = sp.val + 1 ∧ t = { s with sp := sp, pc := a }) ∨
    (s.sp.val = 0 ∧
      t = { s with pc := s.pc - 2#16, fault := some ⟨.stackUnderflow, s.pc - 2#16, encodeWord .ret⟩ }) := by
  replace h : execRet s = .next t := h
  rcases pop_cases s with ⟨h0, e⟩ | ⟨a, sp, e, h1⟩
  · simp only [execRet, e, raiseFault, Host.Outcome.next.injEq] at h
    exact .inr ⟨h0, h.symm⟩
  · simp only [execRet, e, Host.Outcome.next.injEq] at h
    exact .inl ⟨a, sp, h1, h.symm⟩

/-- 2NNN pushes, or takes STACK_OVERFLOW. -/
theorem exec_call_cases {nnn : Addr12} (h : exec (.call nnn) s = .next t) :
    (∃ st sp, sp.val = s.sp.val + 1 ∧ t = { s with stack := st, sp := sp, pc := zextAddr nnn }) ∨
    (s.sp.val = 12 ∧
      t = { s with pc := s.pc - 2#16, fault := some ⟨.stackOverflow, s.pc - 2#16, encodeWord (.call nnn)⟩ }) := by
  replace h : execCall nnn s = .next t := h
  rcases push_cases s s.pc with ⟨h0, e⟩ | ⟨st, sp, e, h1⟩
  · simp only [execCall, e, raiseFault, Host.Outcome.next.injEq] at h
    exact .inr ⟨h0, h.symm⟩
  · simp only [execCall, e, Host.Outcome.next.injEq] at h
    exact .inl ⟨st, sp, h1, h.symm⟩

/-- EX9E skips or not, or takes KEY_INDEX_RANGE. -/
theorem exec_skp_cases {x : Nibble} (h : exec (.skp x) s = .next t) :
    t = s.skipIf (s.keyPressed ((s.reg x).setWidth 4)) ∨
    (0x0F < (s.reg x).toNat ∧ s.config.keyIndexPolicy = .fault ∧
      t = { s with pc := s.pc - 2#16, fault := some ⟨.keyIndexRange, s.pc - 2#16, encodeWord (.skp x)⟩ }) := by
  replace h : execSkp x s = .next t := h
  rcases keyIndex_cases s.config (s.reg x) with e | ⟨e, h1, h2⟩
  · simp only [execSkp, e, Host.Outcome.next.injEq] at h
    exact .inl h.symm
  · simp only [execSkp, e, raiseFault, Host.Outcome.next.injEq] at h
    exact .inr ⟨h1, h2, h.symm⟩

/-- EXA1 skips or not, or takes KEY_INDEX_RANGE. -/
theorem exec_sknp_cases {x : Nibble} (h : exec (.sknp x) s = .next t) :
    t = s.skipIf (!s.keyPressed ((s.reg x).setWidth 4)) ∨
    (0x0F < (s.reg x).toNat ∧ s.config.keyIndexPolicy = .fault ∧
      t = { s with pc := s.pc - 2#16, fault := some ⟨.keyIndexRange, s.pc - 2#16, encodeWord (.sknp x)⟩ }) := by
  replace h : execSknp x s = .next t := h
  rcases keyIndex_cases s.config (s.reg x) with e | ⟨e, h1, h2⟩
  · simp only [execSknp, e, Host.Outcome.next.injEq] at h
    exact .inl h.symm
  · simp only [execSknp, e, raiseFault, Host.Outcome.next.injEq] at h
    exact .inr ⟨h1, h2, h.symm⟩

/-- FX0A waits for a press, waits for the release, or completes. -/
theorem exec_ldVxK_cases {x : Nibble} (h : exec (.ldVxK x) s = .next t) :
    (s.kwKey = none ∧ t = { s with kwReg := some x, kwKey := s.lowestPressed, pc := s.pc - 2#16 }) ∨
    (∃ k, s.kwKey = some k ∧ s.keyPressed k = true ∧ t = { s with pc := s.pc - 2#16 }) ∨
    (∃ k, s.kwKey = some k ∧ s.keyPressed k = false ∧
      t = { s.setReg x (k.setWidth 8) with kwReg := none, kwKey := none }) := by
  replace h : execLdVxK x s = .next t := h
  unfold execLdVxK at h
  split at h
  · rw [Host.Outcome.next.injEq] at h
    exact .inl ⟨‹_›, h.symm⟩
  · rename_i k hk
    split at h
    · rw [Host.Outcome.next.injEq] at h
      exact .inr (.inl ⟨k, hk, ‹_›, h.symm⟩)
    · rename_i hp
      rw [Host.Outcome.next.injEq] at h
      exact .inr (.inr ⟨k, hk, Bool.eq_false_iff.2 hp, h.symm⟩)

/-- FX65 writes registers, and I under its quirk. -/
theorem exec_ldVxMemI_cases {x : Nibble} (h : exec (.ldVxMemI x) s = .next t) :
    ∃ v i, t = { s with v := v, i := i } := by
  replace h : Host.Outcome.next ((s.setRegsFrom 0 (s.bytesAtI (x.toNat + 1))).advanceIndex x) = .next t := h
  rw [Host.Outcome.next.injEq] at h
  obtain ⟨v, hv⟩ := setRegsFrom_eq s (s.bytesAtI (x.toNat + 1)) 0
  rw [hv] at h
  refine ⟨v, t.i, ?_⟩
  subst h
  unfold State.advanceIndex
  split <;> rfl

end Sys2Proof.Machine
end

