-- ==== Sys2Proof/Machine/Assembly.lean ====
section
/-! DEFINITION. The spec's assembler syntax, "for readability only": no rule depends on it (30_encoding.md R80, D20). -/

namespace Sys2Proof

/-- A hexadecimal digit, in capitals. -/
def hexDigit (d : Nibble) : String :=
  ["0", "1", "2", "3", "4", "5", "6", "7", "8", "9", "A", "B", "C", "D", "E", "F"].getD d.toNat ""

/-- `nn`: two digits after 0x. -/
def hexByte (b : Byte) : String := "0x" ++ hexDigit (b.extractLsb' 4 4) ++ hexDigit (b.extractLsb' 0 4)

/-- `nnn`: three digits after 0x. -/
def hexAddr (a : Addr12) : String :=
  "0x" ++ hexDigit (a.extractLsb' 8 4) ++ hexDigit (a.extractLsb' 4 4) ++ hexDigit (a.extractLsb' 0 4)

/-- `Vx`. -/
def regName (x : Nibble) : String := "V" ++ hexDigit x

/-- A line of assembly: the table of R80. -/
def Instr.assembly : Instr → String
  | .cls => "CLS"
  | .ret => "RET"
  | .jp nnn => "JP " ++ hexAddr nnn
  | .call nnn => "CALL " ++ hexAddr nnn
  | .seVxNn x nn => "SE " ++ regName x ++ ", " ++ hexByte nn
  | .sneVxNn x nn => "SNE " ++ regName x ++ ", " ++ hexByte nn
  | .seVxVy x y => "SE " ++ regName x ++ ", " ++ regName y
  | .ldVxNn x nn => "LD " ++ regName x ++ ", " ++ hexByte nn
  | .addVxNn x nn => "ADD " ++ regName x ++ ", " ++ hexByte nn
  | .ldVxVy x y => "LD " ++ regName x ++ ", " ++ regName y
  | .orVxVy x y => "OR " ++ regName x ++ ", " ++ regName y
  | .andVxVy x y => "AND " ++ regName x ++ ", " ++ regName y
  | .xorVxVy x y => "XOR " ++ regName x ++ ", " ++ regName y
  | .addVxVy x y => "ADD " ++ regName x ++ ", " ++ regName y
  | .sub x y => "SUB " ++ regName x ++ ", " ++ regName y
  | .shr x y => "SHR " ++ regName x ++ ", " ++ regName y
  | .subn x y => "SUBN " ++ regName x ++ ", " ++ regName y
  | .shl x y => "SHL " ++ regName x ++ ", " ++ regName y
  | .sneVxVy x y => "SNE " ++ regName x ++ ", " ++ regName y
  | .ldINnn nnn => "LD I, " ++ hexAddr nnn
  | .jpVxNnn x nnn => "JP " ++ regName x ++ ", " ++ hexAddr nnn
  | .rnd x nn => "RND " ++ regName x ++ ", " ++ hexByte nn
  | .drw x y n => "DRW " ++ regName x ++ ", " ++ regName y ++ ", " ++ toString n.toNat
  | .skp x => "SKP " ++ regName x
  | .sknp x => "SKNP " ++ regName x
  | .ldVxDt x => "LD " ++ regName x ++ ", DT"
  | .ldVxK x => "LD " ++ regName x ++ ", K"
  | .ldDtVx x => "LD DT, " ++ regName x
  | .ldStVx x => "LD ST, " ++ regName x
  | .addIVx x => "ADD I, " ++ regName x
  | .ldFVx x => "LD F, " ++ regName x
  | .ldBVx x => "LD B, " ++ regName x
  | .ldMemIVx x => "LD [I], " ++ regName x
  | .ldVxMemI x => "LD " ++ regName x ++ ", [I]"

end Sys2Proof
end

