-- ==== Sys2Proof/Tests/Slice0.lean ====
section
/-! SUPPORT. Tests, one step each, whose expected values are the spec's own (V and W numbers are those of
95_test_vectors.md), and for each statement with hypotheses a state and operands that meet them. -/

namespace Sys2Proof.Tests

open Sys2Proof Sys2Proof.Machine

/-- A view of the state after one Step on the given word at PC. -/
def after {α : Type} (s : State) (w : Nat) (view : State → α) : Option α :=
  match step (s.withFetchWord 16 w) with
  | .next t => some (view t)
  | .fault _ => none
  | .refused _ => none

/-- A view of the state after a schedule of operations. -/
def afterAll {α : Type} (s : State) (ops : List Operation) (view : State → α) : Option α :=
  match performAll ops s with
  | .next t => some (view t)
  | .fault _ => none
  | .refused _ => none

/-- The reset state with the given registers. -/
def withRegs (rs : List (Nibble × Byte)) : State := rs.foldl (fun s p => s.setReg p.1 p.2) State.reset

/-- With the given bytes stored from an address on. -/
def withBytes (s : State) (a : Nat) (bs : List Byte) : State := { s with mem := s.mem.storeBytes a bs }

/-- Under another configuration. -/
def under (c : Config) (s : State) : State := { s with config := c }

/-- With the given keys pressed. -/
def withKeys (ks : List Nibble) (s : State) : State := ks.foldl (fun s k => keyEvent k true s) s

/-- An 8 x 4 instance with all cells off (the size of V130). -/
def small (s : State) : State :=
  { s with config := { Config.default with dispW := 8, dispH := 4 }, display := List.replicate 32 false }

/-- The lit cells among the given ones. -/
def lit (s : State) (cells : List (Nat × Nat)) : List (Nat × Nat) := cells.filter (fun p => s.cell p.1 p.2)

/-! WellFormed -/

/-- X of BNNN is the top nibble of NNN (R74). -/
theorem test_wellFormed_refuses_jump_with_other_x : (Instr.jpVxNnn 0x3 0x20C).wellFormed = false := by decide
theorem test_wellFormed_jump : (Instr.jpVxNnn 0x2 0x20C).wellFormed = true := by decide

/-! Decoding: a word of every constructor, written from the encoding of R75 -/

theorem test_decode_cls : decodeWord 0b0000000011100000#16 = .ok .cls := by decide
theorem test_decode_ret : decodeWord 0b0000000011101110#16 = .ok .ret := by decide
theorem test_decode_jp : decodeWord 0b0001001000001000#16 = .ok (.jp 0x208) := by decide
theorem test_decode_call : decodeWord 0b0010010000000001#16 = .ok (.call 0x401) := by decide
theorem test_decode_seVxNn : decodeWord 0b0011101001000010#16 = .ok (.seVxNn 0xA 0x42) := by decide
theorem test_decode_sneVxNn : decodeWord 0b0100001100000101#16 = .ok (.sneVxNn 0x3 0x05) := by decide
theorem test_decode_seVxVy : decodeWord 0b0101000100100000#16 = .ok (.seVxVy 0x1 0x2) := by decide
theorem test_decode_ldVxNn : decodeWord 0b0110101011111111#16 = .ok (.ldVxNn 0xA 0xFF) := by decide
theorem test_decode_addVxNn : decodeWord 0b0111111100000001#16 = .ok (.addVxNn 0xF 0x01) := by decide
theorem test_decode_ldVxVy : decodeWord 0b1000000100100000#16 = .ok (.ldVxVy 0x1 0x2) := by decide
theorem test_decode_or : decodeWord 0b1000000100100001#16 = .ok (.orVxVy 0x1 0x2) := by decide
theorem test_decode_and : decodeWord 0b1000000100100010#16 = .ok (.andVxVy 0x1 0x2) := by decide
theorem test_decode_xor : decodeWord 0b1000111100100011#16 = .ok (.xorVxVy 0xF 0x2) := by decide
theorem test_decode_addVxVy : decodeWord 0b1000000100100100#16 = .ok (.addVxVy 0x1 0x2) := by decide
theorem test_decode_sub : decodeWord 0b1000000100100101#16 = .ok (.sub 0x1 0x2) := by decide
theorem test_decode_shr : decodeWord 0b1000000100100110#16 = .ok (.shr 0x1 0x2) := by decide
theorem test_decode_subn : decodeWord 0b1000000100100111#16 = .ok (.subn 0x1 0x2) := by decide
theorem test_decode_shl : decodeWord 0b1000000100101110#16 = .ok (.shl 0x1 0x2) := by decide
theorem test_decode_sneVxVy : decodeWord 0b1001000100100000#16 = .ok (.sneVxVy 0x1 0x2) := by decide
theorem test_decode_ldINnn : decodeWord 0b1010000100100011#16 = .ok (.ldINnn 0x123) := by decide
theorem test_decode_jpVxNnn : decodeWord 0b1011001000001100#16 = .ok (.jpVxNnn 0x2 0x20C) := by decide
theorem test_decode_rnd : decodeWord 0b1100000100001111#16 = .ok (.rnd 0x1 0x0F) := by decide
theorem test_decode_drw : decodeWord 0b1101111100100001#16 = .ok (.drw 0xF 0x2 0x1) := by decide
theorem test_decode_skp : decodeWord 0b1110001110011110#16 = .ok (.skp 0x3) := by decide
theorem test_decode_sknp : decodeWord 0b1110001110100001#16 = .ok (.sknp 0x3) := by decide
theorem test_decode_ldVxDt : decodeWord 0b1111010100000111#16 = .ok (.ldVxDt 0x5) := by decide
theorem test_decode_ldVxK : decodeWord 0b1111010100001010#16 = .ok (.ldVxK 0x5) := by decide
theorem test_decode_ldDtVx : decodeWord 0b1111010100010101#16 = .ok (.ldDtVx 0x5) := by decide
theorem test_decode_ldStVx : decodeWord 0b1111010100011000#16 = .ok (.ldStVx 0x5) := by decide
theorem test_decode_addIVx : decodeWord 0b1111111100011110#16 = .ok (.addIVx 0xF) := by decide
theorem test_decode_ldFVx : decodeWord 0b1111000000101001#16 = .ok (.ldFVx 0x0) := by decide
theorem test_decode_ldBVx : decodeWord 0b1111000000110011#16 = .ok (.ldBVx 0x0) := by decide
theorem test_decode_ldMemIVx : decodeWord 0b1111000101010101#16 = .ok (.ldMemIVx 0x1) := by decide
theorem test_decode_ldVxMemI : decodeWord 0b1111001001100101#16 = .ok (.ldVxMemI 0x2) := by decide

/-- V3 to V9, V80: no row of the table matches these words. -/
theorem test_decode_unrecognized :
    [0x0000#16, 0x0123#16, 0x00E1#16, 0x8008#16, 0x800F#16, 0xE000#16, 0xF000#16, 0xF0FF#16, 0x5121#16, 0x9121#16,
      0x8128#16].all (fun w => decide (decodeWord w = .error (.unrecognized w))) = true := by decide

/-- The byte at the lower address is the high one (R53). -/
theorem test_decodeTableWord : decodeTableWord 16 0x1234 = some (.jp 0x234) := by decide

/-- P1, P2 and P3 of 95_test_vectors.md. -/
theorem test_assembly : (Instr.ldVxNn 0xA 0x9D).assembly = "LD VA, 0x9D" ∧ (Instr.call 0x210).assembly = "CALL 0x210" ∧
    (Instr.drw 1 2 5).assembly = "DRW V1, V2, 5" ∧ (Instr.ldVxMemI 2).assembly = "LD V2, [I]" := by decide

/-! The cycle -/

/-- V1. -/
theorem test_fetch_is_big_endian : after State.reset 0x1234 (fun t => t.pc) = some 0x234#16 := by decide
/-- V2: the second byte of a word at 0xFFF is at 0x000. -/
theorem test_fetch_wraps : after { State.reset with pc := 0xFFF#16 } 0x1234 (fun t => t.pc) = some 0x234#16 := by decide
/-- V10: an odd PC is not checked. -/
theorem test_fetch_at_odd_pc :
    after { State.reset with pc := 0x201#16 } 0x602A (fun t => (t.reg 0, t.pc)) = some (0x2A#8, 0x203#16) := by decide
/-- V8. -/
theorem test_unrecognized_word_is_reported :
    after (withRegs [(1, 7), (2, 7)]) 0x5121 (fun t => (t.reports, t.pc)) =
      some ([⟨0x200#16, 0x5121#16⟩], 0x202#16) := by decide

/-! Control flow -/

/-- V20. -/
theorem test_ret : after { State.reset with sp := 1, stack := State.reset.stack.set 0 0x345#16 } 0x00EE
    (fun t => (t.pc, t.sp.val)) = some (0x345#16, 0) := by decide
/-- V21. -/
theorem test_ret_underflow : after State.reset 0x00EE (fun t => (t.fault, t.pc, t.sp.val)) =
    some (some ⟨.stackUnderflow, 0x200#16, 0x00EE#16⟩, 0x200#16, 0) := by decide
/-- V23. -/
theorem test_jp_odd : after State.reset 0x1201 (fun t => t.pc) = some 0x201#16 := by decide
/-- V25. -/
theorem test_call_last_entry : after { State.reset with pc := 0x300#16, sp := 11 } 0x2400
    (fun t => (t.stack[11], t.sp.val, t.pc)) = some (0x302#16, 12, 0x400#16) := by decide
/-- V26. -/
theorem test_call_overflow : after { State.reset with pc := 0x300#16, sp := 12 } 0x2400
    (fun t => (t.fault, t.pc, t.sp.val)) = some (some ⟨.stackOverflow, 0x300#16, 0x2400#16⟩, 0x300#16, 12) := by decide
/-- V27. -/
theorem test_seVxNn_skips : after (withRegs [(0xA, 0x42)]) 0x3A42 (fun t => t.pc) = some 0x204#16 := by decide
/-- V39: a skip past the top of memory. -/
theorem test_seVxNn_at_top : after { State.reset with pc := 0xFFE#16 } 0x3000 (fun t => t.pc) = some 0x1002#16 := by
  decide
/-- V29. -/
theorem test_sneVxNn_stays : after (withRegs [(0xA, 0x42)]) 0x4A42 (fun t => t.pc) = some 0x202#16 := by decide
/-- V32, V33. -/
theorem test_seVxVy : after (withRegs [(1, 7), (2, 8)]) 0x5120 (fun t => t.pc) = some 0x202#16 ∧
    after (withRegs [(1, 9)]) 0x5110 (fun t => t.pc) = some 0x204#16 := by decide
/-- V35. -/
theorem test_sneVxVy : after (withRegs [(1, 7), (2, 8)]) 0x9120 (fun t => t.pc) = some 0x204#16 := by decide
/-- V37. -/
theorem test_jpVxNnn_v0 :
    after (under { Config.default with quirkJumpOffsetVX := false } (withRegs [(0, 5), (2, 2)])) 0xB20C
      (fun t => t.pc) = some 0x211#16 := by decide
/-- V38: the target is above 0xFFF. -/
theorem test_jpVxNnn_high : after (withRegs [(0xF, 0xFF)]) 0xBFFF (fun t => t.pc) = some 0x10FE#16 := by decide

/-! Arithmetic and logic -/

/-- W1. -/
theorem test_ldVxNn_vf : after State.reset 0x6F42 (fun t => t.reg 0xF) = some 0x42#8 := by decide
/-- V51. -/
theorem test_addVxNn_wraps_without_flag :
    after (withRegs [(0xA, 0x02)]) 0x7AFF (fun t => (t.reg 0xA, t.reg 0xF)) = some (0x01#8, 0x00#8) := by decide
/-- V53. -/
theorem test_ldVxVy :
    after (withRegs [(2, 0x33)]) 0x8120 (fun t => (t.reg 1, t.reg 2)) = some (0x33#8, 0x33#8) := by decide
/-- V54, V55. -/
theorem test_or : after (withRegs [(1, 0xF0), (2, 0x0F), (0xF, 5)]) 0x8121 (fun t => (t.reg 1, t.reg 0xF)) =
      some (0xFF#8, 0x00#8) ∧
    after (under { Config.default with quirkLogicResetsVF := false } (withRegs [(1, 0xF0), (2, 0x0F), (0xF, 5)]))
      0x8121 (fun t => (t.reg 1, t.reg 0xF)) = some (0xFF#8, 0x05#8) := by decide
/-- V56. -/
theorem test_and : after (withRegs [(1, 0xF0), (2, 0x3C), (0xF, 5)]) 0x8122 (fun t => (t.reg 1, t.reg 0xF)) =
    some (0x30#8, 0x00#8) := by decide
/-- V59, V60: X = F. -/
theorem test_xor_vf : after (withRegs [(0xF, 0xF0), (2, 0x3C)]) 0x8F23 (fun t => t.reg 0xF) = some 0x00#8 ∧
    after (under { Config.default with quirkLogicResetsVF := false } (withRegs [(0xF, 0xF0), (2, 0x3C)])) 0x8F23
      (fun t => t.reg 0xF) = some 0xCC#8 := by decide
/-- V63: the sum is exactly 0x100. -/
theorem test_add_carry : after (withRegs [(1, 0xFF), (2, 0x01)]) 0x8124 (fun t => (t.reg 1, t.reg 0xF)) =
    some (0x00#8, 0x01#8) := by decide
/-- V66: X = F. -/
theorem test_add_vf : after (withRegs [(0xF, 1), (2, 1)]) 0x8F24 (fun t => t.reg 0xF) = some 0x00#8 := by decide
/-- V67, V69. -/
theorem test_sub : after (withRegs [(1, 5), (2, 10)]) 0x8125 (fun t => (t.reg 1, t.reg 0xF)) = some (0xFB#8, 0x00#8) ∧
    after (withRegs [(1, 7)]) 0x8115 (fun t => (t.reg 1, t.reg 0xF)) = some (0x00#8, 0x01#8) := by decide
/-- V70: X = F. -/
theorem test_sub_vf : after (withRegs [(0xF, 10), (2, 5)]) 0x8F25 (fun t => t.reg 0xF) = some 0x01#8 := by decide
/-- V71. -/
theorem test_shr_reads_vy : after (withRegs [(2, 0x81)]) 0x8126 (fun t => (t.reg 1, t.reg 0xF)) =
    some (0x40#8, 0x01#8) := by decide
/-- V72. -/
theorem test_shr_reads_vx :
    after (under { Config.default with quirkShiftReadsVY := false } (withRegs [(1, 0x81), (2, 0x02)])) 0x8126
      (fun t => (t.reg 1, t.reg 0xF)) = some (0x40#8, 0x01#8) := by decide
/-- V74, V75. -/
theorem test_subn : after (withRegs [(1, 10), (2, 5)]) 0x8127 (fun t => (t.reg 1, t.reg 0xF)) = some (0xFB#8, 0x00#8) ∧
    after (withRegs [(1, 5), (2, 10)]) 0x8127 (fun t => (t.reg 1, t.reg 0xF)) = some (0x05#8, 0x01#8) := by decide
/-- V77. -/
theorem test_shl : after (withRegs [(2, 0x81)]) 0x812E (fun t => (t.reg 1, t.reg 0xF)) = some (0x02#8, 0x01#8) := by
  decide
/-- V79: X = F. -/
theorem test_shl_vf : after (withRegs [(1, 0x7F)]) 0x8F1E (fun t => t.reg 0xF) = some 0x00#8 := by decide
/-- V81: the draw is 0xAB. -/
theorem test_rnd_masks : (rndWith 0xAB#8 1 0x0F State.reset).reg 1 = 0x0B#8 := by decide
/-- V82: every draw. -/
theorem test_rnd_zero_mask (r : Byte) : (rndWith r 1 0x00 State.reset).reg 1 = 0x00#8 := by
  rw [reg_rndWith, if_pos rfl]; exact BitVec.and_zero

/-! Index and memory -/

/-- V90. -/
theorem test_ldINnn : after State.reset 0xA123 (fun t => t.i) = some 0x0123#16 := by decide
/-- V93: 0xFFF does not exceed 0xFFF. -/
theorem test_addIVx_at_limit : after { withRegs [(0xF, 7)] with i := 0x0FFF#16 } 0xF01E (fun t => (t.i, t.reg 0xF)) =
    some (0x0FFF#16, 0x07#8) := by decide
/-- V94: the exact sum is 0x10001. -/
theorem test_addIVx_wraps : after { withRegs [(0xF, 2)] with i := 0xFFFF#16 } 0xFF1E (fun t => (t.i, t.reg 0xF)) =
    some (0x0001#16, 0x01#8) := by decide
/-- V97: no nibble mask. -/
theorem test_ldFVx_past_font : after (withRegs [(0, 0xFF)]) 0xF029 (fun t => t.i) = some 0x04FB#16 := by decide
/-- W6. -/
theorem test_ldBVx : after { withRegs [(0, 157)] with i := 0x300#16 } 0xF033
    (fun t => [t.memRead 0x300, t.memRead 0x301, t.memRead 0x302]) = some [1#8, 5#8, 7#8] := by decide
/-- V100: the wrap overwrites the font. -/
theorem test_ldBVx_wraps : after { withRegs [(0, 255)] with i := 0xFFE#16 } 0xF033
    (fun t => [t.memRead 0xFFE, t.memRead 0xFFF, t.memRead 0x000]) = some [2#8, 5#8, 5#8] := by decide
/-- V102. -/
theorem test_ldMemIVx_increments :
    after (under { Config.default with quirkMemIncrementI := true }
      { withRegs [(0, 0x11), (1, 0x22), (2, 0x33)] with i := 0x400#16 }) 0xF155
      (fun t => ([t.memRead 0x400, t.memRead 0x401, t.memRead 0x402], t.i)) =
      some ([0x11#8, 0x22#8, 0x00#8], 0x402#16) := by decide
/-- V103. -/
theorem test_ldMemIVx_one : after { withRegs [(0, 0x11)] with i := 0xFFF#16 } 0xF055
    (fun t => ([t.memRead 0xFFF, t.memRead 0x000], t.i)) = some ([0x11#8, 0xF0#8], 0xFFF#16) := by decide
/-- V105. -/
theorem test_ldVxMemI : after (withBytes { State.reset with i := 0x300#16 } 0x300 [1, 5, 7, 9]) 0xF265
    (fun t => ([t.reg 0, t.reg 1, t.reg 2, t.reg 3], t.i)) = some ([1#8, 5#8, 7#8, 0#8], 0x300#16) := by decide
/-- V107: the default font. -/
theorem test_ldVxMemI_font : after State.reset 0xFF65 (fun t => t.v.toList) =
    some [0xF0#8, 0x90#8, 0x90#8, 0x90#8, 0xF0#8, 0x20#8, 0x60#8, 0x20#8, 0x20#8, 0x70#8, 0xF0#8, 0x10#8, 0xF0#8,
      0x80#8, 0xF0#8, 0xF0#8] := by decide

/-! Display -/

/-- W4 at the size of V130. -/
theorem test_cls : after { small (withRegs [(0xF, 1)]) with display := List.replicate 32 true } 0x00E0
    (fun t => (t.display.any id, t.reg 0xF)) = some (false, 0x01#8) := by decide
/-- V130: clipped at both edges. -/
theorem test_drw_clips : after (withBytes { small (withRegs [(1, 6), (2, 3)]) with i := 0x300#16 } 0x300 [0xFF, 0xFF])
    0xD122 (fun t => (t.display.findIdxs id, t.reg 0xF)) = some ([30, 31], 0x00#8) := by decide
/-- V121 and the second draw of W5, at the size of V130: cells (0, 0), (1, 0), (0, 1). -/
theorem test_drw_collides :
    after (withBytes { small State.reset with
        i := 0x300#16, display := (((List.replicate 32 false).set 0 true).set 1 true).set 8 true } 0x300 [0xC0, 0x80])
      0xD122 (fun t => (t.display.any id, t.reg 0xF)) = some (false, 0x01#8) := by decide

/-! Keys and timers -/

/-- V140, V141. -/
theorem test_skp : after (withKeys [5] (withRegs [(3, 5)])) 0xE39E (fun t => t.pc) = some 0x204#16 ∧
    after (withRegs [(3, 5)]) 0xE39E (fun t => t.pc) = some 0x202#16 := by decide
/-- V144, V145. -/
theorem test_skp_out_of_range :
    after (withKeys [5] (withRegs [(3, 0x15)])) 0xE39E (fun t => (t.fault, t.pc)) =
      some (some ⟨.keyIndexRange, 0x200#16, 0xE39E#16⟩, 0x200#16) ∧
    after (under { Config.default with keyIndexPolicy := .mask } (withKeys [5] (withRegs [(3, 0x15)]))) 0xE39E
      (fun t => t.pc) = some 0x204#16 := by decide
/-- V142, V143. -/
theorem test_sknp : after (withKeys [5] (withRegs [(3, 5)])) 0xE3A1 (fun t => t.pc) = some 0x202#16 ∧
    after (withRegs [(3, 5)]) 0xE3A1 (fun t => t.pc) = some 0x204#16 := by decide
/-- V146. -/
theorem test_sknp_out_of_range : after (withRegs [(3, 0x15)]) 0xE3A1 (fun t => t.fault) =
    some (some ⟨.keyIndexRange, 0x200#16, 0xE3A1#16⟩) := by decide
/-- V147. -/
theorem test_ldVxDt : after { State.reset with dt := 0x2A#8 } 0xF507 (fun t => t.reg 5) = some 0x2A#8 := by decide
/-- V148. -/
theorem test_ldDtVx : after (withRegs [(5, 9)]) 0xF515 (fun t => (t.dt, t.st)) = some (9#8, 0#8) := by decide
/-- V149. -/
theorem test_ldStVx : after (withRegs [(5, 9)]) 0xF518 (fun t => (t.dt, t.st)) = some (0#8, 9#8) := by decide
/-- V150: the lowest code is latched. -/
theorem test_ldVxK_latches : after (withKeys [9, 3] State.reset) 0xF50A (fun t => (t.pc, t.kwReg, t.kwKey)) =
    some (0x200#16, some 5, some 3) := by decide
/-- V152. -/
theorem test_ldVxK_completes :
    after (withKeys [9] { State.reset with kwReg := some 5, kwKey := some 3 }) 0xF50A
      (fun t => (t.reg 5, t.kwReg, t.kwKey, t.pc)) = some (3#8, none, none, 0x202#16) := by decide

/-! Reset and the host -/

/-- W9. -/
theorem test_load_and_step : afterAll State.reset [.load [0x60, 0x05], .step] (fun t => (t.pc, t.reg 0, t.run)) =
    some (0x202#16, 5#8, .running) := by decide
/-- W8. -/
theorem test_key_wait : afterAll State.reset
    [.load [0xF0, 0x0A], .step, .keyEvent 7 true, .step, .keyEvent 7 false, .step] (fun t => (t.reg 0, t.pc)) =
    some (7#8, 0x202#16) := by decide
/-- V154, W7. -/
theorem test_tick : afterAll { State.reset with dt := 5#8, st := 1#8 } [.tick] (fun t => (t.dt, t.st)) =
    some (4#8, 0#8) ∧
    afterAll State.reset [.tick] (fun t => (t.dt, t.st)) = some (0#8, 0#8) := by decide
/-- V161: one byte too long. -/
theorem test_load_oversize : loadProgram (List.replicate 3585 0#8) State.reset = .oversize := by
  rw [loadProgram, if_pos reset_run, if_pos (by rw [List.length_replicate]; decide)]
/-- V163, V164. -/
theorem test_step_not_accepted : afterAll (State.reset.withFetchWord 16 0x6005) [.pause, .step]
    (fun t => (t.run, t.pc)) = some (.paused, 0x200#16) ∧
    afterAll State.reset [.step] (fun t => t.pc) = some 0x200#16 := by decide
/-- V168. -/
theorem test_quit_is_final : afterAll { State.reset with run := .paused, dt := 3#8 }
    [.quit, .resume, .tick, .keyEvent 1 true] (fun t => (t.run, t.dt, t.keyPressed 1)) =
    some (.quit, 3#8, false) := by decide
/-- V169. -/
theorem test_key_before_load : afterAll State.reset [.keyEvent 4 true] (fun t => t.keyPressed 4) = some true := by
  decide
/-- V167. -/
theorem test_tick_when_faulted : afterAll
    { State.reset with run := .running, dt := 3#8, fault := some ⟨.stackUnderflow, 0x200#16, 0x00EE#16⟩ } [.tick, .step]
    (fun t => (t.dt, t.fault)) = some (2#8, some ⟨.stackUnderflow, 0x200#16, 0x00EE#16⟩) := by decide
/-- R250. -/
theorem test_render_size : State.reset.renderView.width = 64 ∧ State.reset.renderView.height = 32 := by decide

/-! Witnesses: for each statement with hypotheses, states and operands that meet all of them, at the ends of each
clause's range. `ready w` is the reset state with the word `w` at PC, Running. -/

def ready (w : Nat) : State := State.reset.withFetchWord 16 w

theorem ready_display (w : Nat) : (ready w).display.length = (ready w).config.dispW * (ready w).config.dispH :=
  reset_display_length

/-- A state waiting for a key with V[3], and one with a recorded fault, meet the invariant. -/
def waiting : State := { ready 0xF30A with kwReg := some 3 }
def faulted : State := { ready 0x00EE with fault := some ⟨.stackUnderflow, 0x200#16, 0x00EE#16⟩ }

theorem waiting_inv : waiting.Inv where
  configValid := by decide
  memWf := by decide
  displaySize := reset_display_length
  keyWaitLegal := by decide
  keyWaitWord := by
    intro x hx
    have : x = 3 := (Option.some.inj hx).symm
    subst this
    decide
  keyWaitStarted := by decide
  faultStarted := by decide
  faultAtPc := by intro f hf; cases hf
  faultCause := by intro f hf; cases hf
  reportsUnrecognized := by intro r hr; cases hr

theorem faulted_inv : faulted.Inv where
  configValid := by decide
  memWf := by decide
  displaySize := reset_display_length
  keyWaitLegal := by decide
  keyWaitWord := by intro x hx; cases hx
  keyWaitStarted := by decide
  faultStarted := by decide
  faultAtPc := by intro f hf; cases hf; decide
  faultCause := by intro f hf; cases hf; exact ⟨by decide, by decide⟩
  reportsUnrecognized := by intro r hr; cases hr

theorem witness_DecodeOfEncodeIsInstruction : (Instr.jpVxNnn 0xF 0xFFF).wellFormed = true ∧ Instr.cls.wellFormed = true := by
  decide
theorem witness_EncodeOfDecodeIsWord : decodeWord 0xBFFF#16 = .ok (.jpVxNnn 0xF 0xFFF) := by decide
theorem witness_StepRunsFetchedInstruction : ∃ (s : State) (i : Instr), s.run = .running ∧ s.fault = none ∧
    decodeBytes [s.memRead s.pc.toNat, s.memRead (s.pc.toNat + 1)] = .ok (i, []) ∧ s.pc = 0xFFF#16 :=
  ⟨{ State.reset with pc := 0xFFF#16 }.withFetchWord 16 0x1234, .jp 0x234, by decide⟩
theorem witness_UnrecognizedWordIsReportedNoOp : ∃ s : State, s.run = .running ∧ s.fault = none ∧
    decodeWord s.fetchWord = .error (.unrecognized 0x5121#16) := ⟨ready 0x5121, by decide⟩
theorem witness_StepNotAcceptedChangesNothing :
    State.reset.run ≠ .running ∧ faulted.run = .running ∧ faulted.fault ≠ none := by decide

/-- The premises of ControlFlowWorksFromAdvancedPc for a word that decodes to `i`. -/
def Enabled (s : State) (i : Instr) : Prop :=
  s.run = .running ∧ s.fault = none ∧ decodeWord s.fetchWord = .ok i ∧ ∃ t, step s = .next t

theorem witness_ControlFlow_seVxNn : Enabled (ready 0x3A42) (.seVxNn 0xA 0x42) :=
  ⟨rfl, rfl, by decide, _, rfl⟩
theorem witness_ControlFlow_sneVxNn : Enabled (ready 0x4A42) (.sneVxNn 0xA 0x42) :=
  ⟨rfl, rfl, by decide, _, rfl⟩
theorem witness_ControlFlow_seVxVy : Enabled (ready 0x5120) (.seVxVy 1 2) := ⟨rfl, rfl, by decide, _, rfl⟩
theorem witness_ControlFlow_sneVxVy : Enabled (ready 0x9120) (.sneVxVy 1 2) := ⟨rfl, rfl, by decide, _, rfl⟩
theorem witness_ControlFlow_skp :
    Enabled ((withRegs [(3, 0x0F)]).withFetchWord 16 0xE39E) (.skp 3) ∧ ((withRegs [(3, 0x0F)]).reg 3).toNat = 0x0F :=
  ⟨⟨rfl, rfl, by decide, _, rfl⟩, by decide⟩
theorem witness_ControlFlow_sknp :
    Enabled ((withRegs [(3, 0x0F)]).withFetchWord 16 0xE3A1) (.sknp 3) ∧ ((withRegs [(3, 0x0F)]).reg 3).toNat = 0x0F :=
  ⟨⟨rfl, rfl, by decide, _, rfl⟩, by decide⟩
theorem witness_ControlFlow_jp : Enabled (ready 0x1FFF) (.jp 0xFFF) := ⟨rfl, rfl, by decide, _, rfl⟩
theorem witness_ControlFlow_jpVxNnn : Enabled (ready 0xB20C) (.jpVxNnn 2 0x20C) := ⟨rfl, rfl, by decide, _, rfl⟩
theorem witness_ControlFlow_call :
    Enabled ({ State.reset with sp := 11 }.withFetchWord 16 0x2400) (.call 0x400) ∧ Enabled (ready 0x2400) (.call 0x400) :=
  ⟨⟨rfl, rfl, by decide, _, rfl⟩, rfl, rfl, by decide, _, rfl⟩
theorem witness_ControlFlow_ret :
    Enabled ({ State.reset with sp := 1 }.withFetchWord 16 0x00EE) .ret ∧
      Enabled ({ State.reset with sp := 12 }.withFetchWord 16 0x00EE) .ret :=
  ⟨⟨rfl, rfl, by decide, _, rfl⟩, rfl, rfl, by decide, _, rfl⟩

/-- A Step that records a fault, for each fault code. -/
theorem witness_FaultIsPrecise :
    after State.reset 0x00EE (fun t => t.fault.isSome) = some true ∧
    after { State.reset with sp := 12 } 0x2400 (fun t => t.fault.isSome) = some true ∧
    after (withRegs [(3, 0x10)]) 0xE39E (fun t => t.fault.isSome) = some true := by decide
theorem witness_CallPushesAdvancedPc : ∃ s : State, s.sp.val < 12 ∧ s.sp.val = 11 := ⟨{ State.reset with sp := 11 }, by decide⟩
theorem witness_CallOnFullStackFaults : ∃ s : State, s.sp.val = 12 := ⟨{ State.reset with sp := 12 }, rfl⟩
theorem witness_ReturnPopsAddress : ∃ s u : State, s.sp.val = 0 + 1 ∧ u.sp.val = 11 + 1 :=
  ⟨{ State.reset with sp := 1 }, { State.reset with sp := 12 }, rfl, rfl⟩
theorem witness_ReturnOnEmptyStackFaults : State.reset.sp.val = 0 := rfl
theorem witness_ReturnUndoesCall : ∃ s t u : State, s.sp.val < 12 ∧ exec (.call 0x400) s = .next t ∧
    u.stack = t.stack ∧ u.sp = t.sp ∧ u.pc ≠ t.pc :=
  ⟨State.reset, _, State.setPc (State.setPc { State.reset with
    stack := State.reset.stack.set 0 0x200#16, sp := 1 } 0x400#16) 0x402#16, by decide, rfl, rfl, rfl, by decide⟩
/-- The last clause of AddSetsCarry, SubtractSetsNotBorrow and ShiftMovesOneBitIntoVF is for X other than F; the source
of a shift under both settings of its quirk. -/
theorem witness_ResultBesidesFlag : (0xE#4 : Nibble) ≠ 0xF#4 ∧
    (withRegs [(1, 3), (2, 5)]).shiftSource 1 2 = 5#8 ∧
    (under { Config.default with quirkShiftReadsVY := false } (withRegs [(1, 3), (2, 5)])).shiftSource 1 2 = 3#8 := by
  decide
theorem witness_StoreDecimalDigits : (ready 0xF033).mem.wf = true := by decide
theorem witness_StoreRegisters : (ready 0xFF55).mem.wf = true ∧ (0x0#4).toNat ≤ (0x0#4).toNat ∧
    (0xF#4).toNat ≤ (0xF#4).toNat := by decide
theorem witness_StoredWordIsFetched : ∃ s t u : State, s.mem.wf = true ∧ 1 ≤ (0x1#4).toNat ∧
    exec (.ldMemIVx 0x1) s = .next t ∧ u.mem = t.mem ∧ u.pc = s.i ∧ u.run = .running ∧ u.fault = none ∧
    decodeWord (joinBytes (s.reg 0x0#4) (s.reg 0x1#4)) = .ok (.ldVxNn 0x0 0x05) := by
  refine ⟨{ withRegs [(0, 0x60), (1, 0x05)] with i := 0x300#16 }, _,
    { State.reset with run := .running, pc := 0x300#16, mem := Memory.storeBytes [] 0x300 [0x60, 0x05] },
    by decide, by decide, rfl, ?_, rfl, rfl, rfl, by decide⟩
  decide
theorem witness_DrawXorsSprite : ∃ s : State, s.display.length = s.config.dispW * s.config.dispH ∧ s.display.length = 2048 :=
  ⟨State.reset, reset_display_length, reset_display_length⟩
theorem witness_SecondIdenticalDraw : ∃ s t : State, s.display.length = s.config.dispW * s.config.dispH ∧
    exec (.drw 1 2 5) s = .next t ∧ t.reg 1 = s.reg 1 ∧ t.reg 2 = s.reg 2 :=
  ⟨State.reset, _, reset_display_length, rfl, rfl, rfl⟩
theorem witness_SkipOnKey : ((withRegs [(3, 0x0F)]).reg 3).toNat ≤ 0x0F ∧
    (under { Config.default with keyIndexPolicy := .mask } (withRegs [(3, 0x10)])).config.keyIndexPolicy = .mask := by
  decide
theorem witness_KeyIndexOutOfRangeFaults :
    0x0F < ((withRegs [(3, 0x10)]).reg 3).toNat ∧ (withRegs [(3, 0x10)]).config.keyIndexPolicy = .fault := by decide
/-- No key pressed; key 0 pressed; only key F pressed; a latched key held. -/
theorem witness_KeyWaitLatches :
    (State.reset.kwKey = none ∧ ∀ k, State.reset.keyPressed k = false) ∧
    ((withKeys [0] State.reset).kwKey = none ∧ (withKeys [0] State.reset).keyPressed 0 = true) ∧
    ((withKeys [0xF] State.reset).keyPressed 0xF = true ∧
      ∀ j : Nibble, j.toNat < (0xF#4).toNat → (withKeys [0xF] State.reset).keyPressed j = false) ∧
    ∃ s : State, s.kwKey = some 0xF#4 ∧ s.keyPressed 0xF#4 = true := by
  refine ⟨⟨rfl, by decide⟩, by decide, ⟨by decide, by decide⟩, withKeys [0xF] { State.reset with kwKey := some 0xF#4 }, ?_⟩
  decide
theorem witness_KeyWaitCompletesOnRelease : ∃ s : State, s.kwKey = some 0xF#4 ∧ s.keyPressed 0xF#4 = false :=
  ⟨{ State.reset with kwKey := some 0xF#4 }, by decide⟩
theorem witness_NoLaterInstructionUntilRelease : waiting.Inv ∧ waiting.kwReg = some 3 ∧ waiting.run = .running ∧
    waiting.fault = none ∧ (∃ t, step waiting = .next t) ∧ ∃ t, perform .tick waiting = .next t :=
  ⟨waiting_inv, rfl, rfl, rfl, ⟨_, rfl⟩, _, rfl⟩
theorem witness_CreationPlacesFont :
    Config.default.valid = true ∧ { Config.default with dispW := 1, dispH := 1, entry := 0xFFF#16 }.valid = true ∧
    { Config.default with dispW := 0 }.valid = false ∧ { Config.default with dispH := 0 }.valid = false ∧
    { Config.default with entry := 0x1FF#16 }.valid = false ∧
    { Config.default with entry := 0x1000#16 }.valid = false := by decide
theorem witness_LoadPlacesImageOrRefuses :
    State.reset.mem.wf = true ∧ State.reset.config.valid = true ∧ State.reset.run = .loading ∧
    (List.replicate 3584 0#8).length ≤ 4096 - State.reset.config.entry.toNat ∧
    4096 - State.reset.config.entry.toNat < (List.replicate 3585 0#8).length ∧ (ready 0x00E0).run ≠ .loading := by
  rw [List.length_replicate, List.length_replicate]
  decide
theorem witness_TickDecrementsSaturating : State.reset.run ≠ .quit ∧ (State.reset.setRun .quit).run = .quit := by decide
theorem witness_KeyEventSetsOneKey : 15 < 16 ∧ State.reset.run ≠ .quit ∧ 16 ≤ 16 ∧ (State.reset.setRun .quit).run = .quit := by
  decide
theorem witness_LifecycleIsOneWay : State.reset.run ≠ .running ∧ (∃ s, State.create Config.default = .ok s) ∧
    ∃ t, perform (.load []) State.reset = .next t ∧ t.run = .running := ⟨by decide, ⟨_, rfl⟩, _, rfl, rfl⟩
theorem witness_KeysWrittenByKeyEvent :
    (∃ t, perform (.keyEvent 15 true) State.reset = .next t ∧ t.keys ≠ State.reset.keys) ∧
    (Instr.jp 0x200).readsKeys = false ∧ ∃ t, exec (.jp 0x200) State.reset = .next t :=
  ⟨⟨_, rfl, by decide⟩, rfl, _, rfl⟩
theorem witness_DisplayBelongs :
    (∃ t, perform .step ((small { State.reset with run := .running }).withFetchWord 16 0xD015) = .next t ∧
      t.display ≠ (small State.reset).display) ∧
    ∃ t, exec (.jp 0x200) State.reset = .next t := ⟨⟨_, rfl, by decide⟩, _, rfl⟩
theorem witness_MemoryBelongs :
    (∃ t, perform (.load [0x60, 0x05]) State.reset = .next t ∧ t.mem ≠ State.reset.mem) ∧
    (∃ t, perform .step { ready 0xF033 with i := 0x300#16, v := Vector.replicate 16 0x01#8 } = .next t ∧
      t.mem ≠ (ready 0xF033).mem) := ⟨⟨_, rfl, by decide⟩, _, rfl, by decide⟩
theorem witness_TimersBelong :
    (∃ t, perform .tick { State.reset with dt := 1#8 } = .next t ∧ t.dt ≠ 1#8) ∧
    (∃ t, perform .step ((withRegs [(5, 9)]).withFetchWord 16 0xF518) = .next t ∧ t.st ≠ 0#8) :=
  ⟨⟨_, rfl, by decide⟩, _, rfl, by decide⟩
theorem witness_StackBelongs :
    (∃ t, perform .step (ready 0x2400) = .next t ∧ t.stack ≠ (ready 0x2400).stack) ∧
    (∃ t, perform .step ({ State.reset with sp := 12 }.withFetchWord 16 0x00EE) = .next t ∧ t.sp ≠ 12) :=
  ⟨⟨_, rfl, by decide⟩, _, rfl, by decide⟩
theorem witness_RegistersChangeOnlyAsNamed :
    (∃ t, exec (.ldVxMemI 0x1) State.reset = .next t) ∧ (Instr.ldVxMemI 0x1).destReg ≠ some 0x2#4 ∧
    (0x1#4).toNat < (0x2#4).toNat ∧ (Instr.ldVxMemI 0x1).writesVF = false ∧
    (Instr.addVxVy 0x1 0x2).writesVF = true ∧ (Instr.addVxVy 0x1 0x2).destReg ≠ some 0x3#4 :=
  ⟨⟨_, rfl⟩, by decide⟩
theorem witness_ParametersFixed : ∃ t, perform .step (ready 0x5121) = .next t ∧ t.reports.length = 1 := ⟨_, rfl, by decide⟩
theorem witness_FaultIsFinal : faulted.Inv ∧ faulted.fault.isSome ∧
    ∃ t, performAll [.step, .tick, .keyEvent 5 true, .pause, .quit] faulted = .next t :=
  ⟨faulted_inv, rfl, _, rfl⟩
theorem witness_CreationEstablishesInvariant : ∃ s, State.create { Config.default with dispW := 1, dispH := 1 } = .ok s :=
  ⟨_, rfl⟩
theorem witness_StepKeepsInvariant : waiting.Inv ∧ (∃ t, step waiting = .next t) ∧ faulted.Inv ∧
    ∃ t, step faulted = .next t := ⟨waiting_inv, ⟨_, rfl⟩, faulted_inv, _, rfl⟩
theorem witness_EveryScheduleKeepsInvariant : ∃ s, State.create Config.default = .ok s := ⟨_, rfl⟩

end Sys2Proof.Tests
end

section
/-! SUPPORT. The decoder against the opcode table (30_encoding.md R75, R76): rows select disjoint sets of words, a row
that selects a word is what the word decodes to, and every word that decodes is selected by its instruction's row. -/

namespace Sys2Proof

theorem OpcodeRow.selects_iff {r : OpcodeRow} {w : Word} : r.selects w = true ↔ w &&& r.mask = r.pattern := by
  simp [OpcodeRow.selects]

/-! What a selecting row fixes of the word's fields: each field that its mask covers. -/

section
variable {r : OpcodeRow} {w : Word} (h : r.selects w = true)
include h

theorem raw_eq_of_selects (hm : r.mask = 0xFFFF#16) : w = r.pattern := by
  have hw := OpcodeRow.selects_iff.mp h
  rwa [hm, show 0xFFFF#16 = BitVec.allOnes 16 from rfl, BitVec.and_allOnes] at hw

/-- A run of bits that the mask covers is the pattern's. -/
theorem extract_eq_of_selects {start len : Nat} (hm : r.mask.extractLsb' start len = BitVec.allOnes len) :
    w.extractLsb' start len = r.pattern.extractLsb' start len := by
  rw [← OpcodeRow.selects_iff.mp h, BitVec.extractLsb'_and, hm, BitVec.and_allOnes]

theorem op_eq_of_selects (hm : (fields r.mask).op = 0xF#4) : (fields w).op = (fields r.pattern).op :=
  extract_eq_of_selects h hm

theorem n_eq_of_selects (hm : (fields r.mask).n = 0xF#4) : (fields w).n = (fields r.pattern).n :=
  extract_eq_of_selects h hm

theorem nn_eq_of_selects (hm : (fields r.mask).nn = 0xFF#8) : (fields w).nn = (fields r.pattern).nn :=
  extract_eq_of_selects h hm

end

/-- Any two rows differ in a bit that both masks cover. -/
theorem opcodeTable_pairwise_differ :
    opcodeTable.Pairwise fun r r' => r.pattern &&& r'.mask ≠ r'.pattern &&& r.mask := by
  decide

/-- Rows that select one word agree in every bit that both masks cover. -/
theorem pattern_and_mask_comm_of_selects {r r' : OpcodeRow} {w : Word} (h : r.selects w = true)
    (h' : r'.selects w = true) : r.pattern &&& r'.mask = r'.pattern &&& r.mask := by
  rw [← OpcodeRow.selects_iff.mp h, ← OpcodeRow.selects_iff.mp h', BitVec.and_assoc, BitVec.and_assoc,
    BitVec.and_comm r.mask]

/-- At most one row selects a word. -/
theorem filter_selects_ne_cons_cons (w : Word) (r r' : OpcodeRow) (rs : List OpcodeRow) :
    opcodeTable.filter (fun r => r.selects w) ≠ r :: r' :: rs := by
  intro e
  have hselects : ∀ q ∈ r :: r' :: rs, q.selects w = true := by
    rw [← e]
    exact fun q hq => (List.mem_filter.mp hq).2
  have hdiffer := opcodeTable_pairwise_differ.filter (fun r => r.selects w)
  rw [e] at hdiffer
  exact List.rel_of_pairwise_cons hdiffer (by simp)
    (pattern_and_mask_comm_of_selects (hselects r (by simp)) (hselects r' (by simp)))

/-- Every row's mask covers the top nibble, by which the decoder dispatches. -/
theorem opcodeTable_mask_op : ∀ r ∈ opcodeTable, (fields r.mask).op = 0xF#4 := by decide

/-- A word that a row selects decodes to that row's instruction. -/
theorem decodeWord_of_selects {r : OpcodeRow} {w : Word} (hr : r ∈ opcodeTable) (h : r.selects w = true) :
    decodeWord w = .ok (r.build (fields w)) := by
  have hop := op_eq_of_selects h (opcodeTable_mask_op r hr)
  have hraw := raw_eq_of_selects h
  have hn := n_eq_of_selects h
  have hnn := nn_eq_of_selects h
  clear h
  -- row by row: the row's mask says which of these facts it gives, and those choose the decoder's branch
  fin_cases hr <;> simp_all [decodeWord, fields]

/-- A word is unrecognized, or it is the word of the instruction it decodes to. -/
theorem decodeWord_unrecognized_or_encodeWord (w : Word) :
    decodeWord w = .error (.unrecognized w) ∨ ∃ i, decodeWord w = .ok i ∧ encodeWord i = w := by
  have hXNN := packXNN_fields w
  have hNNN := packNNN_fields w
  have hXYN := packXYN_fields w
  have hraw : (fields w).raw = w := rfl
  unfold decodeWord
  dsimp only
  split
  -- the top nibbles 0, 5, 8, 9, E and F are decoded further
  case h_1 | h_6 | h_9 | h_10 | h_15 | h_16 => split <;> simp_all [encodeWord]
  all_goals simp_all [encodeWord]

/-- The row of an instruction stands in the table. -/
theorem tableKey_mem_opcodeTable (i : Instr) : i.tableKey ∈ opcodeTable.map fun r => (r.pattern, r.mask) := by
  cases i <;> (dsimp only [Instr.tableKey]; decide)

/-- The word of an instruction is selected by a row. -/
theorem exists_row_selects_encodeWord (i : Instr) : ∃ r ∈ opcodeTable, r.selects (encodeWord i) = true := by
  obtain ⟨r, hr, hkey⟩ := List.mem_map.mp (tableKey_mem_opcodeTable i)
  have hbits : encodeWord i &&& i.tableKey.2 = i.tableKey.1 := Laws.LiteralBits.all i
  rw [← hkey] at hbits
  exact ⟨r, hr, OpcodeRow.selects_iff.mpr hbits⟩

/-- A word that no row selects is unrecognized (R77). -/
theorem decodeWord_of_no_row {w : Word} (h : opcodeTable.filter (fun r => r.selects w) = []) :
    decodeWord w = .error (.unrecognized w) := by
  rcases decodeWord_unrecognized_or_encodeWord w with herr | ⟨i, -, rfl⟩
  · exact herr
  · obtain ⟨r, hr, hsel⟩ := exists_row_selects_encodeWord i
    exact absurd hsel (List.filter_eq_nil_iff.mp h r hr)

/-- Settles O4: by the number of rows that select the word. One row is what the word decodes to, no row makes it
unrecognized, and the rows are disjoint. -/
theorem decodeFollowsOpcodeTable : Obligations.DecodeFollowsOpcodeTable := by
  refine ⟨rfl, fun w => ?_⟩
  split
  next r hrow =>
    obtain ⟨hr, hsel⟩ := List.mem_filter.mp (hrow ▸ List.mem_singleton_self r)
    exact decodeWord_of_selects hr hsel
  next hnone => exact decodeWord_of_no_row hnone
  next rows hone hnone =>
    cases e : opcodeTable.filter (fun r => r.selects w) with
    | nil => exact hnone e
    | cons r rs =>
      cases rs with
      | nil => exact hone r e
      | cons r' rs => exact filter_selects_ne_cons_cons w r r' rs e

end Sys2Proof
end

section
/-! SUPPORT. Control flow (41_control_flow.md): the word of an instruction decodes to it, a conditional skip as a choice
between two states, and the statements of the family that rest on these. -/

namespace Sys2Proof

/-- The word of a well-formed instruction decodes to that instruction. -/
theorem decodeWord_encodeWord {i : Instr} (hwf : i.wellFormed = true) : decodeWord (encodeWord i) = .ok i := by
  cases i
  -- BNNN is the one instruction with a check: its X is the top nibble of its NNN (R74)
  case jpVxNnn x nnn =>
    have hx : nnn.extractLsb' 8 4 = x := of_decide_eq_true hwf
    simp [encodeWord, decodeWord, fields, hx]
  all_goals simp [encodeWord, decodeWord, fields]

namespace Machine

theorem skipIf_beq (s : State) (a b : Byte) :
    s.skipIf (a == b) = if a = b then { s with pc := s.pc + 2#16 } else s := by
  by_cases h : a = b <;> simp [State.skipIf, State.setPc, h]

theorem skipIf_bne (s : State) (a b : Byte) :
    s.skipIf (a != b) = if a = b then s else { s with pc := s.pc + 2#16 } := by
  by_cases h : a = b <;> simp [State.skipIf, State.setPc, h]

theorem exec_seVxNn (x : Nibble) (nn : Byte) (s : State) :
    exec (.seVxNn x nn) s = .next (s.skipIf (s.reg x == nn)) := rfl

theorem exec_sneVxNn (x : Nibble) (nn : Byte) (s : State) :
    exec (.sneVxNn x nn) s = .next (s.skipIf (s.reg x != nn)) := rfl

theorem exec_jp (nnn : Addr12) (s : State) : exec (.jp nnn) s = .next (s.setPc (zextAddr nnn)) := rfl

end Machine

open Machine

/-- Settles O12: the written word is the jump's encoding, and the jump sets PC and nothing else (R122). -/
theorem jumpLoadsTarget : Obligations.JumpLoadsTarget := by
  intro nnn s
  refine ⟨?_, exec_jp nnn s⟩
  rw [append_packNNN]
  exact decodeWord_encodeWord (i := .jp nnn) rfl

/-- Settles O18: the written words are the skips' encodings, and each skip is a choice between the state with PC past
the next instruction and the state as it was (R124, R125). -/
theorem skipOnImmediate : Obligations.SkipOnImmediate := by
  intro x nn s
  refine ⟨?_, ?_, ?_, ?_⟩
  · rw [append_packXNN]
    exact decodeWord_encodeWord (i := .seVxNn x nn) rfl
  · rw [append_packXNN]
    exact decodeWord_encodeWord (i := .sneVxNn x nn) rfl
  · rw [exec_seVxNn, skipIf_beq]
  · rw [exec_sneVxNn, skipIf_bne]

end Sys2Proof
end

section
/-! SUPPORT. Arithmetic and logic (42_alu.md): what writing one register leaves unchanged, the meanings of 6XNN, 7XNN
and 8XY0 as one register write, and the statement of the family that rests on these. -/

namespace Sys2Proof

namespace Machine

theorem regsExcept_setReg (s : State) (x : Nibble) (b : Byte) : RegsExcept [x] s (s.setReg x b) :=
  fun z hz => reg_setReg_other s x z b (by simpa using hz)

theorem frameExcept_regs_setReg (s : State) (x : Nibble) (b : Byte) : FrameExcept [.regs] s (s.setReg x b) := by
  intro p hp
  cases p
  case regs => simp at hp
  all_goals simp [Unchanged]

theorem exec_ldVxNn (x : Nibble) (nn : Byte) (s : State) : exec (.ldVxNn x nn) s = .next (s.setReg x nn) := rfl

theorem exec_addVxNn (x : Nibble) (nn : Byte) (s : State) :
    exec (.addVxNn x nn) s = .next (s.setReg x (BitVec.ofNat 8 ((s.reg x).toNat + nn.toNat))) := rfl

theorem exec_ldVxVy (x y : Nibble) (s : State) : exec (.ldVxVy x y) s = .next (s.setReg x (s.reg y)) := rfl

end Machine

open Machine

/-- Settles O21: the written words are the instructions' encodings, and each instruction writes its one register and
nothing else (R141, R142, R143). -/
theorem loadAndAddImmediateAndCopy : Obligations.LoadAndAddImmediateAndCopy := by
  intro x y nn s
  refine ⟨⟨?_, ?_⟩, ⟨?_, ?_⟩, ?_, ?_⟩
  · rw [append_packXNN]
    exact decodeWord_encodeWord (i := .ldVxNn x nn) rfl
  · exact ⟨_, exec_ldVxNn x nn s, reg_setReg_same .., regsExcept_setReg s x _, frameExcept_regs_setReg s x _⟩
  · rw [append_packXNN]
    exact decodeWord_encodeWord (i := .addVxNn x nn) rfl
  · refine ⟨_, exec_addVxNn x nn s, ?_, regsExcept_setReg s x _, frameExcept_regs_setReg s x _⟩
    rw [reg_setReg_same, BitVec.toNat_ofNat]
  · rw [append_packXYN]
    exact decodeWord_encodeWord (i := .ldVxVy x y) rfl
  · exact ⟨_, exec_ldVxVy x y s, reg_setReg_same .., regsExcept_setReg s x _, frameExcept_regs_setReg s x _⟩

end Sys2Proof
end

section
/-! SUPPORT. Index and memory (43_index_memory.md): what writing I leaves unchanged, the meanings of ANNN and FX29 as
one write of I, the values they write, and the statement of the family that rests on these. -/

namespace Sys2Proof

namespace Machine

theorem frameExcept_index_setI (s : State) (w : Word) : FrameExcept [.index] s (s.setI w) := by
  intro p hp
  cases p
  case index => simp at hp
  all_goals simp [Unchanged]

theorem exec_ldINnn (nnn : Addr12) (s : State) : exec (.ldINnn nnn) s = .next (s.setI (zextAddr nnn)) := rfl

theorem exec_ldFVx (x : Nibble) (s : State) :
    exec (.ldFVx x) s = .next (s.setI (BitVec.ofNat 16 ((s.reg x).toNat * 5))) := rfl

@[simp] theorem toNat_zextAddr (nnn : Addr12) : (zextAddr nnn).toNat = nnn.toNat :=
  BitVec.toNat_setWidth_of_le (by decide)

/-- Five times any byte fits in I: at most 1275, so the write of FX29 loses no bit. -/
theorem toNat_ofNat_byte_mul_five (b : Byte) : (BitVec.ofNat 16 (b.toNat * 5)).toNat = b.toNat * 5 := by
  have hfits : b.toNat * 5 < 2 ^ 16 := by omega
  rw [BitVec.toNat_ofNat, Nat.mod_eq_of_lt hfits]

end Machine

open Machine

/-- Settles O27: the written words are the instructions' encodings, and each instruction writes I and nothing else, with
a value that fits in its 16 bits (R170, R172). -/
theorem loadIndexAndFontIndex : Obligations.LoadIndexAndFontIndex := by
  intro x nnn s
  refine ⟨⟨?_, ?_⟩, ?_, ?_⟩
  · rw [append_packNNN]
    exact decodeWord_encodeWord (i := .ldINnn nnn) rfl
  · exact ⟨_, exec_ldINnn nnn s, toNat_zextAddr nnn, frameExcept_index_setI s _⟩
  · rw [append_packXNN]
    exact decodeWord_encodeWord (i := .ldFVx x) rfl
  · exact ⟨_, exec_ldFVx x s, toNat_ofNat_byte_mul_five (s.reg x), frameExcept_index_setI s _⟩

end Sys2Proof
end

section
/-! SUPPORT. Display (44_display.md): what replacing the display leaves unchanged, the meaning of 00E0 as one such
replacement, and the statement of the family that rests on these. -/

namespace Sys2Proof

namespace Machine

theorem frameExcept_display_with (s : State) (d : List Bool) :
    FrameExcept [.display] s { s with display := d } := by
  intro p hp
  cases p
  case display => simp at hp
  all_goals simp [Unchanged, State.reg, State.memRead]

theorem exec_cls (s : State) : exec .cls s = .next { s with display := s.display.map fun _ => false } := rfl

/-- A cell beyond the display reads false as well, so the coordinates need no bound. -/
theorem cell_with_display_map_false (s : State) (cx cy : Nat) :
    State.cell { s with display := s.display.map fun _ => false } cx cy = false :=
  List.getD_map (d := false) ..

end Machine

open Machine

/-- Settles O33: 00E0 is the clear's encoding, and the clear maps every cell to false, which keeps the number of cells
and replaces the display alone (R191). -/
theorem clearTurnsEveryCellOff : Obligations.ClearTurnsEveryCellOff :=
  ⟨decodeWord_encodeWord (i := .cls) rfl, fun s =>
    ⟨_, exec_cls s, cell_with_display_map_false s, List.length_map _, frameExcept_display_with s _⟩⟩

end Sys2Proof
end

section
/-! SUPPORT. Timers (45_input_timer.md): what replacing a timer leaves unchanged, the meanings of FX07, FX15 and FX18
as one write each, and the statement of the family that rests on these. -/

namespace Sys2Proof

namespace Machine

theorem frameExcept_delayTimer_with (s : State) (b : Byte) : FrameExcept [.delayTimer] s { s with dt := b } := by
  intro p hp
  cases p
  case delayTimer => simp at hp
  all_goals simp [Unchanged, State.reg, State.memRead]

theorem frameExcept_soundTimer_with (s : State) (b : Byte) : FrameExcept [.soundTimer] s { s with st := b } := by
  intro p hp
  cases p
  case soundTimer => simp at hp
  all_goals simp [Unchanged, State.reg, State.memRead]

theorem exec_ldVxDt (x : Nibble) (s : State) : exec (.ldVxDt x) s = .next (s.setReg x s.dt) := rfl

theorem exec_ldDtVx (x : Nibble) (s : State) : exec (.ldDtVx x) s = .next { s with dt := s.reg x } := rfl

theorem exec_ldStVx (x : Nibble) (s : State) : exec (.ldStVx x) s = .next { s with st := s.reg x } := rfl

end Machine

open Machine

/-- Settles O38: the written words are the instructions' encodings, FX07 writes its one register, and FX15 and FX18
each replace their one timer; the value moved is read from the state before the write (R212, R214, R215). -/
theorem timerTransfers : Obligations.TimerTransfers := by
  intro x s
  refine ⟨⟨?_, ?_⟩, ⟨?_, ?_⟩, ?_, ?_⟩
  · rw [append_packXNN]
    exact decodeWord_encodeWord (i := .ldVxDt x) rfl
  · exact ⟨_, exec_ldVxDt x s, reg_setReg_same .., regsExcept_setReg s x _, frameExcept_regs_setReg s x _⟩
  · rw [append_packXNN]
    exact decodeWord_encodeWord (i := .ldDtVx x) rfl
  · exact ⟨_, exec_ldDtVx x s, rfl, frameExcept_delayTimer_with s _⟩
  · rw [append_packXNN]
    exact decodeWord_encodeWord (i := .ldStVx x) rfl
  · exact ⟨_, exec_ldStVx x s, rfl, frameExcept_soundTimer_with s _⟩

end Sys2Proof
end

section
/-! SUPPORT. The encoding (30_encoding.md): the round trip in both directions and the words that no instruction has, and
the statements of the family that rest on these. -/

namespace Sys2Proof

/-- The only failure of the word decoder is the report of that very word (R77). -/
theorem error_eq_unrecognized_of_decodeWord {w : Word} {e : DecodeError} (h : decodeWord w = .error e) :
    e = .unrecognized w := by
  rcases decodeWord_unrecognized_or_encodeWord w with herr | ⟨i, hok, -⟩
  · exact Except.error.inj (h.symm.trans herr)
  · rw [hok] at h
    cases h

/-- A recognized word is the word of the instruction it decodes to. -/
theorem encodeWord_of_decodeWord {w : Word} {i : Instr} (h : decodeWord w = .ok i) : encodeWord i = w := by
  rcases decodeWord_unrecognized_or_encodeWord w with herr | ⟨j, hok, hw⟩
  · rw [herr] at h
    cases h
  · rw [hok] at h
    cases h
    exact hw

/-- A word decodes to well-formed instructions only. -/
theorem wellFormed_of_decodeWord {w : Word} {i : Instr} (h : decodeWord w = .ok i) : i.wellFormed = true := by
  have hw := encodeWord_of_decodeWord h
  cases i
  -- BNNN alone has a check: its word, which does not hold X apart from NNN, decodes to the well-formed term
  case jpVxNnn x nnn =>
    have hX : decodeWord w = .ok (.jpVxNnn (nnn.extractLsb' 8 4) nnn) := by
      rw [← hw]
      exact decodeWord_encodeWord (i := .jpVxNnn (nnn.extractLsb' 8 4) nnn) (decide_eq_true rfl)
    rw [h] at hX
    cases hX
    exact decide_eq_true rfl
  all_goals rfl

/-- Settles O2: the bytes of an instruction are those of its word, and the word decodes to the instruction. -/
theorem decodeOfEncodeIsInstruction : Obligations.DecodeOfEncodeIsInstruction := by
  intro i rest hwf
  rw [encode, decodeBytes_wordBytes, decodeWord_encodeWord hwf]
  rfl

/-- Settles O3: the two halves of the round trip from the word's side. -/
theorem encodeOfDecodeIsWord : Obligations.EncodeOfDecodeIsWord :=
  fun _ _ h => ⟨wellFormed_of_decodeWord h, encodeWord_of_decodeWord h⟩

/-- Settles O1: each written word is evaluated. -/
theorem writtenWordsDecode : Obligations.WrittenWordsDecode := by
  unfold Obligations.WrittenWordsDecode
  decide

/-- The nibbles, in the two halves that the low nibble of an 8XYN word is split into (R77). -/
theorem nibble_cases : ∀ n : Nibble, n ∈ [0#4, 1#4, 2#4, 3#4, 4#4, 5#4, 6#4, 7#4] ∨
    8 ≤ n.toNat ∧ n ∈ [8#4, 9#4, 10#4, 11#4, 12#4, 13#4, 14#4, 15#4] := by
  decide

/-- Settles O5: by the decoder's dispatch. A top nibble that is decoded further fails in its last branch alone, and the
list of R77 is the complement of the other branches. -/
theorem unrecognizedWordsAreExactly : Obligations.UnrecognizedWordsAreExactly := by
  intro w
  have hraw : (fields w).raw = w := rfl
  unfold decodeWord
  dsimp only
  split
  case h_1 | h_6 | h_10 | h_15 | h_16 => split <;> simp_all
  case h_9 =>
    split
    case h_10 =>
      rcases nibble_cases (fields w).n with hlow | hhigh <;> simp_all
    all_goals simp_all
  -- there is no seventeenth nibble
  case h_17 =>
    have hop := nibble_cases (fields w).op
    simp_all
  all_goals simp_all

end Sys2Proof
end

section
/-! SUPPORT. Which parts of the state an instruction reads and which it writes: a part it does not write is kept, and a
part it neither reads nor writes may hold anything without any effect on the rest. -/

namespace Sys2Proof

open Machine

/-- The parts an instruction may write. A fault writes PC and the fault record (R105). -/
def Instr.writes : Instr → List Part
  | .cls => [.display]
  | .ret | .call _ => [.pc, .stack, .faultRecord]
  | .jp _ | .seVxNn _ _ | .sneVxNn _ _ | .seVxVy _ _ | .sneVxVy _ _ | .jpVxNnn _ _ => [.pc]
  | .ldVxNn _ _ | .addVxNn _ _ | .ldVxVy _ _ | .orVxVy _ _ | .andVxVy _ _ | .xorVxVy _ _ | .addVxVy _ _ | .sub _ _
  | .shr _ _ | .subn _ _ | .shl _ _ | .ldVxDt _ => [.regs]
  | .rnd _ _ => [.regs, .draws]
  | .ldINnn _ | .ldFVx _ => [.index]
  | .addIVx _ | .ldVxMemI _ => [.regs, .index]
  | .drw _ _ _ => [.display, .regs]
  | .skp _ | .sknp _ => [.pc, .faultRecord]
  | .ldVxK _ => [.regs, .pc, .keyWait]
  | .ldDtVx _ => [.delayTimer]
  | .ldStVx _ => [.soundTimer]
  | .ldBVx _ => [.memory]
  | .ldMemIVx _ => [.memory, .index]

/-- The parts an instruction may read, after its fetch, for what it writes. -/
def Instr.reads : Instr → List Part
  | .cls => [.display]
  | .ret | .call _ => [.pc, .stack]
  | .jp _ | .ldVxNn _ _ | .ldINnn _ => []
  | .seVxNn _ _ | .sneVxNn _ _ | .seVxVy _ _ | .sneVxVy _ _ => [.regs, .pc]
  | .addVxNn _ _ | .ldVxVy _ _ | .addVxVy _ _ | .sub _ _ | .subn _ _ | .ldDtVx _ | .ldStVx _ | .ldFVx _ => [.regs]
  | .jpVxNnn _ _ | .orVxVy _ _ | .andVxVy _ _ | .xorVxVy _ _ | .shr _ _ | .shl _ _ => [.regs, .config]
  | .rnd _ _ => [.draws]
  | .addIVx _ | .ldBVx _ => [.regs, .index]
  | .ldMemIVx _ => [.regs, .index, .config]
  | .ldVxMemI _ => [.index, .memory, .config]
  | .drw _ _ _ => [.display, .regs, .index, .memory, .config]
  | .skp _ | .sknp _ => [.regs, .pc, .keys, .config]
  | .ldVxK _ => [.pc, .keys, .keyWait]
  | .ldVxDt _ => [.delayTimer]

namespace Machine

theorem eq_of_next {o : Host.Outcome State Fault Refusal} {s t : State} (hs : o = .next s) (ht : o = .next t) : s = t :=
  Host.Outcome.next.inj (hs.symm.trans ht)

/-- The state `s` with one part taken from `u`. -/
def State.graft (s : State) (p : Part) (u : State) : State :=
  match p with
  | .config => { s with config := u.config }
  | .regs => { s with v := u.v }
  | .index => { s with i := u.i }
  | .pc => { s with pc := u.pc }
  | .stack => { s with stack := u.stack, sp := u.sp }
  | .delayTimer => { s with dt := u.dt }
  | .soundTimer => { s with st := u.st }
  | .display => { s with display := u.display }
  | .keys => { s with keys := u.keys }
  | .keyWait => { s with kwReg := u.kwReg, kwKey := u.kwKey }
  | .memory => { s with mem := u.mem }
  | .lifecycle => { s with run := u.run }
  | .faultRecord => { s with fault := u.fault }
  | .reports => { s with reports := u.reports }
  | .draws => { s with draws := u.draws }

@[simp] theorem graft_self (s : State) (p : Part) : s.graft p s = s := by cases p <;> rfl

/-- Only the grafted part of the second state matters. -/
@[simp] theorem graft_graft_right (s t u : State) (p : Part) : s.graft p (t.graft p u) = s.graft p u := by
  cases p <;> rfl

theorem unchanged_graft (s t : State) (p : Part) : Unchanged p s (t.graft p s) := by
  cases p <;> simp [Unchanged, State.graft, State.reg, State.memRead]

/-- Every part but those listed holds what it held before. Memory is compared as data here, where `FrameExcept` compares
it read by read. -/
def Keeps (ps : List Part) (s t : State) : Prop := ∀ p, p ∉ ps → t.graft p s = t

section
variable {ps qs : List Part} {s t u : State}

theorem Keeps.frameExcept (h : Keeps ps s t) : FrameExcept ps s t := fun p hp => h p hp ▸ unchanged_graft s t p

theorem Keeps.mono (hps : ps ⊆ qs) (h : Keeps ps s t) : Keeps qs s t := fun p hp => h p fun hmem => hp (hps hmem)

theorem Keeps.trans (h : Keeps ps s t) (h' : Keeps qs t u) : Keeps (ps ++ qs) s u := fun p hp => by
  rw [List.mem_append, not_or] at hp
  rw [← graft_graft_right, h p hp.1, h' p hp.2]

theorem Keeps.config (h : Keeps ps s t) (hp : .config ∉ ps) : t.config = s.config :=
  (congrArg State.config (h _ hp)).symm
theorem Keeps.pc (h : Keeps ps s t) (hp : .pc ∉ ps) : t.pc = s.pc := (congrArg State.pc (h _ hp)).symm
theorem Keeps.sp (h : Keeps ps s t) (hp : .stack ∉ ps) : t.sp = s.sp := (congrArg State.sp (h _ hp)).symm
theorem Keeps.display (h : Keeps ps s t) (hp : .display ∉ ps) : t.display = s.display :=
  (congrArg State.display (h _ hp)).symm
theorem Keeps.kwReg (h : Keeps ps s t) (hp : .keyWait ∉ ps) : t.kwReg = s.kwReg :=
  (congrArg State.kwReg (h _ hp)).symm
theorem Keeps.kwKey (h : Keeps ps s t) (hp : .keyWait ∉ ps) : t.kwKey = s.kwKey :=
  (congrArg State.kwKey (h _ hp)).symm
theorem Keeps.mem (h : Keeps ps s t) (hp : .memory ∉ ps) : t.mem = s.mem := (congrArg State.mem (h _ hp)).symm
theorem Keeps.run (h : Keeps ps s t) (hp : .lifecycle ∉ ps) : t.run = s.run := (congrArg State.run (h _ hp)).symm
theorem Keeps.fault (h : Keeps ps s t) (hp : .faultRecord ∉ ps) : t.fault = s.fault :=
  (congrArg State.fault (h _ hp)).symm
theorem Keeps.reports (h : Keeps ps s t) (hp : .reports ∉ ps) : t.reports = s.reports :=
  (congrArg State.reports (h _ hp)).symm

theorem Keeps.reg (h : Keeps ps s t) (hp : .regs ∉ ps) (z : Nibble) : t.reg z = s.reg z :=
  (congrArg (State.reg · z) (h _ hp)).symm

end

/-! The shared operations keep every part but their own. -/

section
variable (s : State)

theorem keeps_refl (ps : List Part) : Keeps ps s s := fun p _ => graft_self s p

theorem graft_graft_comm (u v : State) {p q : Part} (h : p ≠ q) :
    (s.graft q u).graft p v = (s.graft p v).graft q u := by
  cases p <;> cases q <;> simp at h <;> rfl

/-- Replacing one part keeps the others. -/
theorem keeps_graft (q : Part) (u : State) : Keeps [q] s (s.graft q u) := by
  intro p hp
  rw [graft_graft_comm s u s (List.ne_of_not_mem_cons hp), graft_self]

theorem keeps_setReg (x : Nibble) (b : Byte) : Keeps [.regs] s (s.setReg x b) := keeps_graft s .regs (s.setReg x b)

theorem keeps_setPc (w : Word) : Keeps [.pc] s (s.setPc w) := keeps_graft s .pc (s.setPc w)

theorem keeps_setI (w : Word) : Keeps [.index] s (s.setI w) := keeps_graft s .index (s.setI w)

theorem keeps_storeAtI (bs : List Byte) : Keeps [.memory] s (s.storeAtI bs) := keeps_graft s .memory (s.storeAtI bs)

theorem keeps_display (d : List Bool) : Keeps [.display] s { s with display := d } :=
  keeps_graft s .display { s with display := d }

theorem keeps_delayTimer (b : Byte) : Keeps [.delayTimer] s { s with dt := b } :=
  keeps_graft s .delayTimer { s with dt := b }

theorem keeps_soundTimer (b : Byte) : Keeps [.soundTimer] s { s with st := b } :=
  keeps_graft s .soundTimer { s with st := b }

theorem keeps_draws (k : Nat) : Keeps [.draws] s { s with draws := k } := keeps_graft s .draws { s with draws := k }

theorem keeps_keyWait (r k : Option Nibble) : Keeps [.keyWait] s { s with kwReg := r, kwKey := k } :=
  keeps_graft s .keyWait { s with kwReg := r, kwKey := k }

theorem keeps_stack_pc (st : Vector Word 12) (sp : Fin 13) (w : Word) :
    Keeps [.pc, .stack] s { s with stack := st, sp := sp, pc := w } :=
  (keeps_setPc s w).trans (keeps_graft _ .stack { s with stack := st, sp := sp })

theorem keeps_fault_pc (f : Option FaultRecord) (w : Word) :
    Keeps [.pc, .faultRecord] s { s with pc := w, fault := f } :=
  (keeps_setPc s w).trans (keeps_graft _ .faultRecord { s with fault := f })

theorem keeps_regs_index (v : Vector Byte 16) (w : Word) : Keeps [.regs, .index] s { s with v := v, i := w } :=
  (keeps_graft s .regs { s with v := v }).trans (keeps_setI _ w)

theorem keeps_skipIf (taken : Bool) : Keeps [.pc] s (s.skipIf taken) := by
  unfold State.skipIf
  split
  · exact keeps_setPc s _
  · exact keeps_refl s _

theorem keeps_setRegThenVF (x : Nibble) (b f : Byte) : Keeps [.regs] s (s.setRegThenVF x b f) :=
  ((keeps_setReg s x b).trans (keeps_setReg _ vfIndex f)).mono (by simp)

theorem keeps_setLogic (x : Nibble) (b : Byte) : Keeps [.regs] s (s.setLogic x b) := by
  unfold State.setLogic
  split
  · exact keeps_setRegThenVF s x b _
  · exact keeps_setReg s x b

theorem keeps_advanceIndex (x : Nibble) : Keeps [.index] s (s.advanceIndex x) := by
  unfold State.advanceIndex
  split
  · exact keeps_setI s _
  · exact keeps_refl s _

end

/-! The meanings not yet stated as one update. -/

section
variable (x y n : Nibble) (nn : Byte) (nnn : Addr12) (s : State)

theorem exec_seVxVy : exec (.seVxVy x y) s = .next (s.skipIf (s.reg x == s.reg y)) := rfl
theorem exec_sneVxVy : exec (.sneVxVy x y) s = .next (s.skipIf (s.reg x != s.reg y)) := rfl

theorem exec_jpVxNnn :
    exec (.jpVxNnn x nnn) s = .next (s.setPc (zextByte (s.jumpOffset x) + zextAddr nnn)) := rfl

theorem exec_orVxVy : exec (.orVxVy x y) s = .next (s.setLogic x (s.reg x ||| s.reg y)) := rfl
theorem exec_andVxVy : exec (.andVxVy x y) s = .next (s.setLogic x (s.reg x &&& s.reg y)) := rfl
theorem exec_xorVxVy : exec (.xorVxVy x y) s = .next (s.setLogic x (s.reg x ^^^ s.reg y)) := rfl

theorem exec_addVxVy : exec (.addVxVy x y) s =
    .next (s.setRegThenVF x (BitVec.ofNat 8 ((s.reg x).toNat + (s.reg y).toNat))
      (flagByte (carryFlag (s.reg x) (s.reg y)))) := rfl

theorem exec_sub : exec (.sub x y) s =
    .next (s.setRegThenVF x (s.reg x - s.reg y) (flagByte (noBorrowFlag (s.reg x) (s.reg y)))) := rfl

theorem exec_subn : exec (.subn x y) s =
    .next (s.setRegThenVF x (s.reg y - s.reg x) (flagByte (noBorrowFlag (s.reg y) (s.reg x)))) := rfl

theorem exec_shr : exec (.shr x y) s =
    .next (s.setRegThenVF x (s.shiftSource x y >>> 1) (flagByte (shiftedOutLow (s.shiftSource x y)))) := rfl

theorem exec_shl : exec (.shl x y) s =
    .next (s.setRegThenVF x (s.shiftSource x y <<< 1) (flagByte (shiftedOutHigh (s.shiftSource x y)))) := rfl

theorem exec_rnd : exec (.rnd x nn) s = .next (rndWith (Config.randomByte s.draws) x nn s) := rfl

theorem exec_ldBVx : exec (.ldBVx x) s = .next (s.storeAtI (bcdDigits (s.reg x))) := rfl
theorem exec_ldMemIVx : exec (.ldMemIVx x) s = .next ((s.storeAtI (s.regsUpTo x)).advanceIndex x) := rfl

theorem exec_ldVxMemI :
    exec (.ldVxMemI x) s = .next ((s.setRegsFrom 0 (s.bytesAtI (x.toNat + 1))).advanceIndex x) := rfl

/-- What DXYN leaves of its sprite on the display (R192). -/
def State.drawn : Canvas :=
  Canvas.blit s.config.dispW s.config.dispH (s.anchorX x) (s.anchorY y) (s.bytesAtI n.toNat) ⟨s.display, false⟩

theorem exec_drw : exec (.drw x y n) s =
    .next ({ s with display := (s.drawn x y n).cells }.setReg vfIndex (flagByte (s.drawn x y n).collided)) := rfl

end

/-- The state after taking a fault at an instruction whose word is `w` (R105, R232). -/
def State.faulted (s : State) (code : FaultCode) (w : Word) : State :=
  { s with pc := s.pc - 2#16, fault := some ⟨code, s.pc - 2#16, w⟩ }

/-! The meanings with more than one outcome, by the condition that decides. -/

section
variable {s : State}

theorem exec_ret_of_empty (h : s.sp.val = 0) :
    exec .ret s = .next (s.faulted .stackUnderflow (encodeWord .ret)) := by
  change execRet s = _
  rw [execRet, pop_of_empty s h]
  rfl

theorem exec_ret_of_pos (k : Nat) (hk : k < 12) (h : s.sp.val = k + 1) : exec .ret s =
    .next { s with pc := s.stack[k], sp := ⟨k, Nat.lt_of_lt_of_le hk (by decide)⟩ } := by
  change execRet s = _
  rw [execRet, pop_of_pos s k hk h]
  rfl

theorem exec_call_of_full (nnn : Addr12) (h : s.sp.val = 12) :
    exec (.call nnn) s = .next (s.faulted .stackOverflow (encodeWord (.call nnn))) := by
  change execCall nnn s = _
  rw [execCall, push_of_full s s.pc h]
  rfl

theorem exec_call_of_lt (nnn : Addr12) (h : s.sp.val < 12) : exec (.call nnn) s =
    .next { s with
      pc := zextAddr nnn, stack := s.stack.set s.sp.val s.pc h, sp := ⟨s.sp.val + 1, Nat.succ_lt_succ h⟩ } := by
  change execCall nnn s = _
  rw [execCall, push_of_lt s s.pc h]
  rfl

variable {x k : Nibble} {code : FaultCode}

theorem exec_addIVx_of_overflow (h : indexOverflow s.i (s.reg x) = true) : exec (.addIVx x) s =
    .next ((s.setI (BitVec.ofNat 16 (s.i.toNat + (s.reg x).toNat))).setReg vfIndex 0x01#8) := by
  change execAddIVx x s = _
  rw [execAddIVx, if_pos h]

theorem exec_addIVx_of_fits (h : ¬indexOverflow s.i (s.reg x) = true) :
    exec (.addIVx x) s = .next (s.setI (BitVec.ofNat 16 (s.i.toNat + (s.reg x).toNat))) := by
  change execAddIVx x s = _
  rw [execAddIVx, if_neg h]

theorem exec_skp_of_ok (h : keyIndex s.config (s.reg x) = .ok k) :
    exec (.skp x) s = .next (s.skipIf (s.keyPressed k)) := by
  change execSkp x s = _
  rw [execSkp, h]

theorem exec_skp_of_error (h : keyIndex s.config (s.reg x) = .error code) :
    exec (.skp x) s = .next (s.faulted code (encodeWord (.skp x))) := by
  change execSkp x s = _
  rw [execSkp, h]
  rfl

theorem exec_sknp_of_ok (h : keyIndex s.config (s.reg x) = .ok k) :
    exec (.sknp x) s = .next (s.skipIf (!s.keyPressed k)) := by
  change execSknp x s = _
  rw [execSknp, h]

theorem exec_sknp_of_error (h : keyIndex s.config (s.reg x) = .error code) :
    exec (.sknp x) s = .next (s.faulted code (encodeWord (.sknp x))) := by
  change execSknp x s = _
  rw [execSknp, h]
  rfl

theorem exec_ldVxK_of_idle (h : s.kwKey = none) : exec (.ldVxK x) s =
    .next { s with kwReg := some x, kwKey := s.lowestPressed, pc := s.pc - 2#16 } := by
  change execLdVxK x s = _
  rw [execLdVxK, h]
  rfl

theorem exec_ldVxK_of_held (h : s.kwKey = some k) (hk : s.keyPressed k = true) :
    exec (.ldVxK x) s = .next s.rewind := by
  change execLdVxK x s = _
  rw [execLdVxK, h]
  exact if_pos hk

theorem exec_ldVxK_of_released (h : s.kwKey = some k) (hk : s.keyPressed k = false) :
    exec (.ldVxK x) s = .next { s.setReg x (k.setWidth 8) with kwReg := none, kwKey := none } := by
  change execLdVxK x s = _
  rw [execLdVxK, h]
  exact if_neg (by simp [hk])

end

variable {i : Instr} {s t : State}

/-- An instruction keeps every part that it does not write. -/
theorem exec_keeps (h : exec i s = .next t) : Keeps i.writes s t := by
  cases i
  case ret =>
    obtain ⟨a, sp, -, rfl⟩ | ⟨-, rfl⟩ := exec_ret_cases h
    · exact (keeps_stack_pc s s.stack sp a).mono (by simp [Instr.writes])
    · exact (keeps_fault_pc s _ _).mono (by simp [Instr.writes])
  case call =>
    obtain ⟨st, sp, -, rfl⟩ | ⟨-, rfl⟩ := exec_call_cases h
    · exact (keeps_stack_pc s st sp _).mono (by simp [Instr.writes])
    · exact (keeps_fault_pc s _ _).mono (by simp [Instr.writes])
  case skp =>
    obtain rfl | ⟨-, -, rfl⟩ := exec_skp_cases h
    · exact (keeps_skipIf s _).mono (by simp [Instr.writes])
    · exact keeps_fault_pc s _ _
  case sknp =>
    obtain rfl | ⟨-, -, rfl⟩ := exec_sknp_cases h
    · exact (keeps_skipIf s _).mono (by simp [Instr.writes])
    · exact keeps_fault_pc s _ _
  case ldVxK x =>
    obtain ⟨-, rfl⟩ | ⟨k, -, -, rfl⟩ | ⟨k, -, -, rfl⟩ := exec_ldVxK_cases h
    · exact ((keeps_setPc s (s.pc - 2#16)).trans (keeps_keyWait _ (some x) s.lowestPressed)).mono
        (by simp [Instr.writes])
    · exact (keeps_setPc s _).mono (by simp [Instr.writes])
    · exact ((keeps_setReg s x _).trans (keeps_keyWait _ _ _)).mono (by simp [Instr.writes])
  case ldVxMemI =>
    obtain ⟨v, w, rfl⟩ := exec_ldVxMemI_cases h
    exact keeps_regs_index s v w
  -- every other meaning is a single update
  all_goals obtain rfl := Host.Outcome.next.inj h
  case cls => exact keeps_display s _
  case jp | jpVxNnn => exact keeps_setPc s _
  case seVxNn | sneVxNn | seVxVy | sneVxVy => exact keeps_skipIf s _
  case ldVxNn | addVxNn | ldVxVy | ldVxDt => exact keeps_setReg s _ _
  case orVxVy | andVxVy | xorVxVy => exact keeps_setLogic s _ _
  case addVxVy | sub | shr | subn | shl => exact keeps_setRegThenVF s _ _ _
  case rnd x nn => exact (keeps_setReg s x _).trans (keeps_draws _ _)
  case drw x y n => exact (keeps_display s _).trans (keeps_setReg _ vfIndex _)
  case ldINnn | ldFVx => exact keeps_setI s _
  case addIVx x =>
    split
    · exact ((keeps_setI s _).trans (keeps_setReg _ vfIndex _)).mono (by simp [Instr.writes])
    · exact (keeps_setI s _).mono (by simp [Instr.writes])
  case ldDtVx => exact keeps_delayTimer s _
  case ldStVx => exact keeps_soundTimer s _
  case ldBVx => exact keeps_storeAtI s _
  case ldMemIVx x => exact (keeps_storeAtI s _).trans (keeps_advanceIndex _ x)

/-! A part that an instruction neither reads nor writes may hold anything. -/

section
variable {p : Part} (s u : State)

theorem config_graft (hp : p ≠ .config) : (s.graft p u).config = s.config := by
  cases p
  case config => exact absurd rfl hp
  all_goals rfl

theorem index_graft (hp : p ≠ .index) : (s.graft p u).i = s.i := by
  cases p
  case index => exact absurd rfl hp
  all_goals rfl

theorem setI_graft (hp : p ≠ .index) (w : Word) : (s.graft p u).setI w = (s.setI w).graft p u := by
  cases p
  case index => exact absurd rfl hp
  all_goals rfl

theorem setReg_graft (hp : p ≠ .regs) (x : Nibble) (b : Byte) :
    (s.graft p u).setReg x b = (s.setReg x b).graft p u := by
  cases p
  case regs => exact absurd rfl hp
  all_goals rfl

theorem skipIf_graft (hp : p ≠ .pc) (taken : Bool) : (s.graft p u).skipIf taken = (s.skipIf taken).graft p u := by
  cases p
  case pc => exact absurd rfl hp
  all_goals cases taken <;> rfl

theorem setLogic_graft (hr : p ≠ .regs) (hc : p ≠ .config) (x : Nibble) (b : Byte) :
    (s.graft p u).setLogic x b = (s.setLogic x b).graft p u := by
  unfold State.setLogic
  rw [config_graft s u hc]
  split
  · rw [State.setRegThenVF, setReg_graft s u hr, setReg_graft _ u hr, State.setRegThenVF]
  · exact setReg_graft s u hr x b

theorem advanceIndex_graft (hi : p ≠ .index) (hc : p ≠ .config) (x : Nibble) :
    (s.graft p u).advanceIndex x = (s.advanceIndex x).graft p u := by
  unfold State.advanceIndex
  rw [config_graft s u hc, index_graft s u hi]
  split
  · exact setI_graft s u hi _
  · rfl

theorem setRegsFrom_graft (hr : p ≠ .regs) (j : Nat) (bs : List Byte) :
    (s.graft p u).setRegsFrom j bs = (s.setRegsFrom j bs).graft p u := by
  induction bs generalizing s j with
  | nil => rfl
  | cons b bs ih => rw [State.setRegsFrom, setReg_graft s u hr, ih, State.setRegsFrom]

end

/-- A part that an instruction neither reads nor writes has no part in its effect. -/
theorem exec_graft (h : exec i s = .next t) {p : Part} (hr : p ∉ i.reads) (hw : p ∉ i.writes) (u : State) :
    exec i (s.graft p u) = .next (t.graft p u) := by
  cases i <;> simp only [Instr.reads, Instr.writes, List.mem_cons, List.not_mem_nil, or_false, not_or] at hr hw
  case ret =>
    rcases Nat.eq_zero_or_pos s.sp.val with h0 | h0
    · obtain rfl := eq_of_next (exec_ret_of_empty h0) h
      cases p <;> simp at hr hw <;> exact exec_ret_of_empty h0
    · obtain ⟨k, hk⟩ := Nat.exists_eq_add_one.2 h0
      obtain rfl := eq_of_next (exec_ret_of_pos k (by omega) hk) h
      cases p <;> simp at hr hw <;> exact exec_ret_of_pos k (by omega) hk
  case call nnn =>
    rcases Nat.lt_or_ge s.sp.val 12 with h0 | h0
    · obtain rfl := eq_of_next (exec_call_of_lt nnn h0) h
      cases p <;> simp at hr hw <;> exact exec_call_of_lt nnn (by exact h0)
    · have hfull : s.sp.val = 12 := by omega
      obtain rfl := eq_of_next (exec_call_of_full nnn hfull) h
      cases p <;> simp at hr hw <;> exact exec_call_of_full nnn hfull
  case skp x =>
    rcases keyIndex_cases s.config (s.reg x) with hk | ⟨hk, -, -⟩
    · obtain rfl := eq_of_next (exec_skp_of_ok hk) h
      rw [← skipIf_graft s u hw.1]
      cases p <;> simp at hr hw <;> exact exec_skp_of_ok hk
    · obtain rfl := eq_of_next (exec_skp_of_error hk) h
      cases p <;> simp at hr hw <;> exact exec_skp_of_error hk
  case sknp x =>
    rcases keyIndex_cases s.config (s.reg x) with hk | ⟨hk, -, -⟩
    · obtain rfl := eq_of_next (exec_sknp_of_ok hk) h
      rw [← skipIf_graft s u hw.1]
      cases p <;> simp at hr hw <;> exact exec_sknp_of_ok hk
    · obtain rfl := eq_of_next (exec_sknp_of_error hk) h
      cases p <;> simp at hr hw <;> exact exec_sknp_of_error hk
  case ldVxK x =>
    cases hk : s.kwKey with
    | none =>
      obtain rfl := eq_of_next (exec_ldVxK_of_idle hk) h
      cases p <;> simp at hr hw <;> exact exec_ldVxK_of_idle hk
    | some k =>
      cases hp : s.keyPressed k with
      | true =>
        obtain rfl := eq_of_next (exec_ldVxK_of_held hk hp) h
        cases p <;> simp at hr hw <;> exact exec_ldVxK_of_held hk hp
      | false =>
        obtain rfl := eq_of_next (exec_ldVxK_of_released hk hp) h
        cases p <;> simp at hr hw <;> exact exec_ldVxK_of_released hk hp
  case addIVx x =>
    by_cases ho : indexOverflow s.i (s.reg x) = true
    · obtain rfl := eq_of_next (exec_addIVx_of_overflow ho) h
      cases p <;> simp at hr hw <;> exact exec_addIVx_of_overflow ho
    · obtain rfl := eq_of_next (exec_addIVx_of_fits ho) h
      cases p <;> simp at hr hw <;> exact exec_addIVx_of_fits ho
  -- every other meaning is a single update
  all_goals obtain rfl := Host.Outcome.next.inj h
  case seVxNn | sneVxNn | seVxVy | sneVxVy =>
    rw [← skipIf_graft s u hw]
    cases p <;> simp at hr hw <;> rfl
  case orVxVy | andVxVy | xorVxVy =>
    rw [← setLogic_graft s u hr.1 hr.2]
    cases p <;> simp at hr hw <;> rfl
  case ldMemIVx =>
    rw [← advanceIndex_graft _ u hr.2.1 hr.2.2]
    cases p <;> simp at hr hw <;> rfl
  case ldVxMemI =>
    rw [← advanceIndex_graft _ u hr.1 hr.2.2, ← setRegsFrom_graft s u hw.1]
    cases p <;> simp at hr hw <;> rfl
  all_goals cases p <;> simp at hr hw <;> rfl

end Machine
end Sys2Proof
end

section
/-! SUPPORT. The execution cycle (40_execution_cycle.md) and taking a fault (60_exceptions.md): what a Step is in each
of its three cases, that every instruction answers a next state, the one form of a faulted state, and the statements of
the family that rest on these. -/

namespace Sys2Proof

namespace Machine

variable {s t : State} {i : Instr}

/-! A Step by its case. -/

theorem step_of_decodeWord (hrun : s.run = .running) (hfault : s.fault = none) (h : decodeWord s.fetchWord = .ok i) :
    step s = exec i s.advancePc := by
  rw [step, if_pos (stepEnabled_iff s |>.2 ⟨hrun, hfault⟩), h]

theorem step_of_decodeWord_error {e : DecodeError} (hrun : s.run = .running) (hfault : s.fault = none)
    (h : decodeWord s.fetchWord = .error e) : step s = reportUnimplemented s.fetchWord s.advancePc := by
  rw [step, if_pos (stepEnabled_iff s |>.2 ⟨hrun, hfault⟩), h]

@[simp] theorem advancePc_pc_sub_two (s : State) : s.advancePc.pc - 2#16 = s.pc :=
  congrArg State.pc (advancePc_rewind s)

/-- A skip seen from the instruction's own address. -/
theorem pc_skipIf_advancePc (s : State) (taken : Bool) :
    (s.advancePc.skipIf taken).pc = if taken then s.pc + 4#16 else s.pc + 2#16 := by
  rw [skipIf_pc]
  change (if taken then s.pc + 2#16 + 2#16 else s.pc + 2#16) = _
  rw [BitVec.add_assoc]
  rfl

/-- No instruction stops the model. -/
theorem exec_next (i : Instr) (s : State) : ∃ t, exec i s = .next t := by
  cases i
  case ret =>
    rcases Nat.eq_zero_or_pos s.sp.val with h | h
    · exact ⟨_, exec_ret_of_empty h⟩
    · obtain ⟨k, hk⟩ := Nat.exists_eq_add_one.2 h
      exact ⟨_, exec_ret_of_pos k (by omega) hk⟩
  case call nnn =>
    rcases Nat.lt_or_ge s.sp.val 12 with h | h
    · exact ⟨_, exec_call_of_lt nnn h⟩
    · exact ⟨_, exec_call_of_full nnn (by omega)⟩
  case skp x =>
    rcases keyIndex_cases s.config (s.reg x) with h | ⟨h, -, -⟩
    · exact ⟨_, exec_skp_of_ok h⟩
    · exact ⟨_, exec_skp_of_error h⟩
  case sknp x =>
    rcases keyIndex_cases s.config (s.reg x) with h | ⟨h, -, -⟩
    · exact ⟨_, exec_sknp_of_ok h⟩
    · exact ⟨_, exec_sknp_of_error h⟩
  case ldVxK x =>
    cases hk : s.kwKey with
    | none => exact ⟨_, exec_ldVxK_of_idle hk⟩
    | some k =>
      cases hp : s.keyPressed k with
      | true => exact ⟨_, exec_ldVxK_of_held hk hp⟩
      | false => exact ⟨_, exec_ldVxK_of_released hk hp⟩
  all_goals exact ⟨_, rfl⟩

theorem step_next (s : State) : ∃ t, step s = .next t := by
  unfold step
  split
  · split
    · exact exec_next _ _
    · exact ⟨_, rfl⟩
  · exact ⟨s, rfl⟩

/-- An instruction leaves the fault record alone, or takes a fault that names it and its cause. -/
theorem exec_fault_cases (h : exec i s = .next t) :
    t.fault = s.fault ∨
    ∃ code, t = s.faulted code (encodeWord i) ∧ FaultRecord.Cause ⟨code, s.pc - 2#16, encodeWord i⟩ s := by
  cases i
  case ret =>
    obtain ⟨a, sp, -, rfl⟩ | ⟨h0, rfl⟩ := exec_ret_cases h
    · exact .inl rfl
    · exact .inr ⟨.stackUnderflow, rfl, decodeWord_encodeWord (i := .ret) rfl, h0⟩
  case call nnn =>
    obtain ⟨st, sp, -, rfl⟩ | ⟨h0, rfl⟩ := exec_call_cases h
    · exact .inl rfl
    · exact .inr ⟨.stackOverflow, rfl, nnn, decodeWord_encodeWord (i := .call nnn) rfl, h0⟩
  case skp x =>
    obtain rfl | ⟨hx, hpol, rfl⟩ := exec_skp_cases h
    · exact .inl (skipIf_fault s _)
    · exact .inr ⟨.keyIndexRange, rfl, x, .inl (decodeWord_encodeWord (i := .skp x) rfl), hx, hpol⟩
  case sknp x =>
    obtain rfl | ⟨hx, hpol, rfl⟩ := exec_sknp_cases h
    · exact .inl (skipIf_fault s _)
    · exact .inr ⟨.keyIndexRange, rfl, x, .inr (decodeWord_encodeWord (i := .sknp x) rfl), hx, hpol⟩
  all_goals exact .inl ((exec_keeps h).fault (by simp [Instr.writes]))

/-- A Step that runs an instruction ends without a fault, or in the state before it with a fault recorded that names the
instruction at PC and its cause (R105, R232). -/
theorem exec_advancePc_fault_cases (hfault : s.fault = none) (hd : decodeWord s.fetchWord = .ok i)
    (h : exec i s.advancePc = .next t) :
    t.fault = none ∨ ∃ f, t = { s with fault := some f } ∧ f.addr = s.pc ∧ f.word = s.fetchWord ∧ f.Cause s := by
  obtain hkept | ⟨code, rfl, hcause⟩ := exec_fault_cases h
  · exact .inl (hkept.trans hfault)
  · rw [advancePc_pc_sub_two, encodeWord_of_decodeWord hd] at hcause
    rw [State.faulted, advancePc_pc_sub_two, encodeWord_of_decodeWord hd]
    exact .inr ⟨_, rfl, rfl, rfl, hcause⟩

end Machine

open Machine

/-- Settles O6: two bytes decode as the word they make, which is the word fetched at PC. -/
theorem stepRunsFetchedInstruction : Obligations.StepRunsFetchedInstruction := by
  intro s i rest hrun hfault hbytes
  rw [decodeBytes_cons] at hbytes
  cases hd : decodeWord (joinBytes (s.memRead s.pc.toNat) (s.memRead (s.pc.toNat + 1))) with
  | error e =>
    rw [hd] at hbytes
    cases hbytes
  | ok j =>
    rw [hd] at hbytes
    cases hbytes
    exact step_of_decodeWord hrun hfault hd

/-- Settles O7: the report's address, the advanced PC less 2, is the PC before the fetch. -/
theorem unrecognizedWordIsReportedNoOp : Obligations.UnrecognizedWordIsReportedNoOp := by
  intro s e hrun hfault h
  rw [step_of_decodeWord_error hrun hfault h, reportUnimplemented, advancePc_pc_sub_two]
  rfl

/-- Settles O8: such a state is not enabled. -/
theorem stepNotAcceptedChangesNothing : Obligations.StepNotAcceptedChangesNothing := by
  intro s h
  refine step_of_not_enabled (Bool.eq_false_iff.2 fun he => ?_)
  obtain ⟨hrun, hfault⟩ := (stepEnabled_iff s).1 he
  exact h.elim (· hrun) (· hfault)

/-- Settles O9: by instruction, and for a Step by its three cases. -/
theorem everyInstructionAndStepAnswersNext : Obligations.EveryInstructionAndStepAnswersNext := ⟨exec_next, step_next⟩

/-- Settles O11: of the three cases of a Step only a fault of the fetched instruction records one, and the word encoded
again for the record is the word fetched. -/
theorem faultIsPreciseAndRecordsInstruction : Obligations.FaultIsPreciseAndRecordsInstruction := by
  intro s t f hrun hfault hstep hf
  have hnone : t.fault ≠ none := by simp [hf]
  obtain ⟨-, rfl⟩ | ⟨-, i, hd, hexec⟩ | ⟨-, -, rfl⟩ := step_cases hstep
  · exact absurd hfault hnone
  · obtain hkept | ⟨f', rfl, hrecord⟩ := exec_advancePc_fault_cases hfault hd hexec
    · exact absurd hkept hnone
    · obtain rfl := Option.some.inj hf
      exact ⟨rfl, hrecord⟩
  · exact absurd hfault hnone

/-- Settles O10: each clause reads the target off the instruction's one update of the state past the fetch. -/
theorem controlFlowWorksFromAdvancedPc : Obligations.ControlFlowWorksFromAdvancedPc := by
  intro s t i hrun hfault hd hstep
  rw [step_of_decodeWord hrun hfault hd] at hstep
  refine ⟨?seVxNn, ?sneVxNn, ?seVxVy, ?sneVxVy, ?skp, ?sknp, ?jp, ?jpVxNnn, ?call, ?ret⟩
  case seVxNn | sneVxNn | seVxVy | sneVxVy =>
    rintro _ _ rfl
    obtain rfl := Host.Outcome.next.inj hstep
    rw [pc_skipIf_advancePc]
    simp
  case skp =>
    rintro x rfl hx
    obtain rfl := eq_of_next (exec_skp_of_ok (s := s.advancePc) (keyIndex_of_le _ hx)) hstep
    exact pc_skipIf_advancePc s _
  case sknp =>
    rintro x rfl hx
    obtain rfl := eq_of_next (exec_sknp_of_ok (s := s.advancePc) (keyIndex_of_le _ hx)) hstep
    rw [pc_skipIf_advancePc, keyPressed_advancePc, reg_advancePc]
    cases s.keyPressed ((s.reg x).setWidth 4) <;> rfl
  case jp =>
    rintro nnn rfl
    obtain rfl := Host.Outcome.next.inj hstep
    rfl
  case jpVxNnn =>
    rintro x nnn rfl
    obtain rfl := Host.Outcome.next.inj hstep
    rfl
  case call =>
    rintro nnn rfl hroom
    obtain rfl := eq_of_next (exec_call_of_lt (s := s.advancePc) nnn hroom) hstep
    exact ⟨Vector.getElem_set_self .., rfl⟩
  case ret =>
    rintro rfl k hk hsp
    obtain rfl := eq_of_next (exec_ret_of_pos (s := s.advancePc) k hk hsp) hstep
    rfl

end Sys2Proof
end

section
/-! SUPPORT. The invariant `State.Inv` (10_state.md R26, R28, R50; 60_exceptions.md R231 to R233): what a Step does to
the parts it speaks of, that every operation keeps it, and the statements of the family that rest on these. -/

namespace Sys2Proof

namespace Machine

variable {s t : State} {i : Instr}

/-! What an instruction does to each part the invariant speaks of. -/

theorem exec_config (h : exec i s = .next t) : t.config = s.config :=
  (exec_keeps h).config (by cases i <;> simp [Instr.writes])

theorem exec_run (h : exec i s = .next t) : t.run = s.run :=
  (exec_keeps h).run (by cases i <;> simp [Instr.writes])

theorem exec_reports (h : exec i s = .next t) : t.reports = s.reports :=
  (exec_keeps h).reports (by cases i <;> simp [Instr.writes])

/-- FX33 and FX55 store bytes; every other instruction leaves memory alone. -/
theorem exec_mem_wf (h : exec i s = .next t) (hwf : s.mem.wf = true) : t.mem.wf = true := by
  cases i
  case ldBVx x =>
    obtain rfl := Host.Outcome.next.inj h
    exact Memory.wf_storeBytes hwf _ _
  case ldMemIVx x =>
    obtain rfl := Host.Outcome.next.inj h
    rw [advanceIndex_mem]
    exact Memory.wf_storeBytes hwf _ _
  all_goals rwa [(exec_keeps h).mem (by simp [Instr.writes])]

/-- 00E0 maps the cells and DXYN sets them one by one; every other instruction leaves the display alone. -/
theorem exec_display_length (h : exec i s = .next t) (hlen : s.display.length = s.config.dispW * s.config.dispH) :
    t.display.length = s.config.dispW * s.config.dispH := by
  cases i
  case cls =>
    obtain rfl := Host.Outcome.next.inj h
    rwa [List.length_map]
  case drw x y n =>
    obtain rfl := Host.Outcome.next.inj h
    exact (Canvas.blit_spec (s.bytesAtI n.toNat) (s.anchorY y) ⟨s.display, false⟩ hlen).1
  all_goals rwa [(exec_keeps h).display (by simp [Instr.writes])]

theorem fetchWord_congr (hmem : t.mem = s.mem) (hpc : t.pc = s.pc) : t.fetchWord = s.fetchWord := by
  rw [State.fetchWord, wordAt_congr s t hmem, hpc, State.fetchWord]

/-- While a wait is in progress the instruction fetched is its FX0A. -/
theorem eq_ldVxK_of_kwReg {x : Nibble} (hinv : s.Inv) (hd : decodeWord s.fetchWord = .ok i) (hx : s.kwReg = some x) :
    i = .ldVxK x := Except.ok.inj (hd.symm.trans (hinv.keyWaitWord x hx))

theorem kwKey_eq_none_of_kwReg (hinv : s.Inv) (hreg : s.kwReg = none) : s.kwKey = none := by
  cases hkey : s.kwKey with
  | none => rfl
  | some k => simpa [hkey, hreg] using hinv.keyWaitLegal

/-- A Step that runs an instruction ends with no wait in progress, or in the wait of the FX0A at PC. -/
theorem exec_advancePc_keyWait_cases (hinv : s.Inv) (hd : decodeWord s.fetchWord = .ok i)
    (h : exec i s.advancePc = .next t) :
    (t.kwReg = none ∧ t.kwKey = none) ∨
    ∃ x, i = .ldVxK x ∧ t.kwReg = some x ∧ t.mem = s.mem ∧ t.pc = s.pc := by
  cases i
  case ldVxK x =>
    obtain ⟨-, rfl⟩ | ⟨k, hkey, -, rfl⟩ | ⟨k, -, -, rfl⟩ := exec_ldVxK_cases h
    · exact .inr ⟨x, rfl, rfl, rfl, advancePc_pc_sub_two s⟩
    · obtain ⟨y, hy⟩ := Option.isSome_iff_exists.1 (hinv.keyWaitLegal (Option.isSome_of_eq_some hkey))
      cases eq_ldVxK_of_kwReg hinv hd hy
      exact .inr ⟨x, rfl, hy, rfl, advancePc_pc_sub_two s⟩
    · exact .inl ⟨rfl, rfl⟩
  all_goals
    have hidle : s.kwReg = none := by
      refine Option.eq_none_iff_forall_ne_some.2 fun x hx => ?_
      cases eq_ldVxK_of_kwReg hinv hd hx
    have hkey : s.kwKey = none := kwKey_eq_none_of_kwReg hinv hidle
    have hkeeps := exec_keeps h
    exact .inl ⟨(hkeeps.kwReg (by simp [Instr.writes])).trans hidle,
      (hkeeps.kwKey (by simp [Instr.writes])).trans hkey⟩

theorem inv_of_exec (hinv : s.Inv) (hrun : s.run = .running) (hfault : s.fault = none)
    (hd : decodeWord s.fetchWord = .ok i) (h : exec i s.advancePc = .next t) : t.Inv := by
  have hconfig : t.config = s.config := (exec_config h).trans rfl
  have hrun' : t.run = .running := (exec_run h).trans hrun
  have hwait := exec_advancePc_keyWait_cases hinv hd h
  have hfaults := exec_advancePc_fault_cases hfault hd h
  constructor
  case configValid => exact hconfig ▸ hinv.configValid
  case memWf => exact exec_mem_wf h hinv.memWf
  case displaySize =>
    rw [hconfig]
    exact exec_display_length (s := s.advancePc) h hinv.displaySize
  case keyWaitLegal =>
    obtain ⟨-, hkey⟩ | ⟨x, -, hreg, -⟩ := hwait
    · simp [hkey]
    · simp [hreg]
  case keyWaitWord =>
    intro y hy
    obtain ⟨hreg, -⟩ | ⟨x, rfl, hreg, hmem, hpc⟩ := hwait
    · rw [hreg] at hy
      cases hy
    · rw [fetchWord_congr hmem hpc, hd]
      rw [hreg] at hy
      cases hy
      rfl
  case keyWaitStarted => simp [hrun']
  case faultStarted => simp [hrun']
  case faultAtPc =>
    intro f hf
    obtain hnone | ⟨f', rfl, haddr, hword, -⟩ := hfaults
    · rw [hnone] at hf
      cases hf
    · obtain rfl := Option.some.inj hf
      exact ⟨haddr, hword⟩
  case faultCause =>
    intro f hf
    obtain hnone | ⟨f', rfl, -, -, hcause⟩ := hfaults
    · rw [hnone] at hf
      cases hf
    · obtain rfl := Option.some.inj hf
      exact hcause
  case reportsUnrecognized =>
    rw [exec_reports h]
    exact hinv.reportsUnrecognized

/-- The report of an unrecognized word keeps the invariant: no wait is in progress there. -/
theorem inv_of_report {e : DecodeError} (hinv : s.Inv) (hfault : s.fault = none)
    (hd : decodeWord s.fetchWord = .error e) :
    State.Inv { s.advancePc with reports := s.reports ++ [⟨s.pc, s.fetchWord⟩] } := by
  have hidle : s.kwReg = none := by
    refine Option.eq_none_iff_forall_ne_some.2 fun x hx => ?_
    cases hd.symm.trans (hinv.keyWaitWord x hx)
  constructor
  case configValid => exact hinv.configValid
  case memWf => exact hinv.memWf
  case displaySize => exact hinv.displaySize
  case keyWaitLegal => exact hinv.keyWaitLegal
  case keyWaitWord => exact fun x hx => absurd (hx.symm.trans hidle) (Option.some_ne_none x)
  case keyWaitStarted => exact hinv.keyWaitStarted
  case faultStarted => exact hinv.faultStarted
  case faultAtPc => exact fun f hf => absurd (hf.symm.trans hfault) (Option.some_ne_none f)
  case faultCause => exact fun f hf => absurd (hf.symm.trans hfault) (Option.some_ne_none f)
  case reportsUnrecognized =>
    intro r hr
    obtain hold | hnew := List.mem_append.1 hr
    · exact hinv.reportsUnrecognized r hold
    · obtain rfl := List.mem_singleton.1 hnew
      rw [hd, error_eq_unrecognized_of_decodeWord hd]

theorem inv_of_step (hinv : s.Inv) (h : step s = .next t) : t.Inv := by
  obtain ⟨-, rfl⟩ | ⟨he, i, hd, hexec⟩ | ⟨he, ⟨e, hd⟩, rfl⟩ := step_cases h
  · exact hinv
  · obtain ⟨hrun, hfault⟩ := (stepEnabled_iff s).1 he
    exact inv_of_exec hinv hrun hfault hd hexec
  · exact inv_of_report hinv ((stepEnabled_iff s).1 he).2 hd

/-- A key code fits in a register. -/
theorem toNat_reg_setReg_key (s : State) (x k : Nibble) : ((s.setReg x (k.setWidth 8)).reg x).toNat = k.toNat := by
  rw [reg_setReg_same]
  exact BitVec.toNat_setWidth_of_le (by decide)

/-! The host's operations. -/

/-- The parts an operation other than a Step may write (R245). -/
def Operation.writes : Operation → List Part
  | .load _ => [.memory, .lifecycle]
  | .tick => [.delayTimer, .soundTimer]
  | .keyEvent _ _ => [.keys]
  | .pause | .resume | .quit => [.lifecycle]
  | .step | .inspect => []

theorem keeps_setRun (s : State) (r : RunState) : Keeps [.lifecycle] s (s.setRun r) :=
  keeps_graft s .lifecycle (s.setRun r)

theorem keeps_tick (s : State) : Keeps [.delayTimer, .soundTimer] s (tick s) :=
  (keeps_delayTimer s (decTimer s.dt)).trans (keeps_soundTimer _ (decTimer s.st))

theorem keeps_keyEvent (s : State) (k : Nibble) (pressed : Bool) : Keeps [.keys] s (keyEvent k pressed s) :=
  keeps_graft s .keys (keyEvent k pressed s)

theorem keeps_load (s : State) (m : Memory) (r : RunState) :
    Keeps [.memory, .lifecycle] s { s with mem := m, run := r } :=
  (keeps_graft s .memory { s with mem := m }).trans (keeps_setRun _ r)

variable {op : Operation}

theorem perform_keeps (hop : op ≠ .step) (h : perform op s = .next t) : Keeps op.writes s t := by
  obtain rfl | ⟨image, rfl, -, -, rfl⟩ | ⟨rfl, -, rfl⟩ | ⟨code, pressed, rfl, -, -, rfl⟩ | ⟨rfl, -, rfl⟩ |
    ⟨rfl, -, rfl⟩ | ⟨rfl, -, rfl⟩ := perform_cases hop h
  · exact keeps_refl _ _
  · exact keeps_load s _ _
  · exact keeps_tick s
  · exact keeps_keyEvent s _ pressed
  all_goals exact keeps_setRun s _

theorem perform_next (op : Operation) (s : State) : ∃ t, perform op s = .next t := by
  cases op
  case step => exact step_next s
  case load image =>
    simp only [perform]
    split <;> exact ⟨_, rfl⟩
  all_goals exact ⟨_, rfl⟩

/-- Loading is left and not entered. -/
theorem perform_run_ne_loading (h : perform op s = .next t) (hs : s.run ≠ .loading) : t.run ≠ .loading := by
  by_cases hop : op = .step
  · subst hop
    obtain ⟨-, rfl⟩ | ⟨-, i, -, hexec⟩ | ⟨-, -, rfl⟩ := step_cases h
    · exact hs
    · rw [exec_run hexec]
      exact hs
    · exact hs
  · obtain rfl | ⟨-, -, hload, -⟩ | ⟨-, -, rfl⟩ | ⟨-, -, -, -, -, rfl⟩ | ⟨-, -, rfl⟩ | ⟨-, -, rfl⟩ | ⟨-, -, rfl⟩ :=
      perform_cases hop h
    · exact hs
    · exact absurd hload hs
    · exact hs
    · exact hs
    all_goals exact RunState.noConfusion

/-- An operation other than a Step changes nothing that the invariant or a recorded fault speaks of, or it is the Load
of an image. -/
theorem perform_keeps_or_load (hop : op ≠ .step) (h : perform op s = .next t) :
    Keeps [.delayTimer, .soundTimer, .keys, .lifecycle] s t ∨
    ∃ image, s.run = .loading ∧
      t = { s with mem := s.mem.storeBytes s.config.entry.toNat image, run := .running } := by
  have hkeeps := perform_keeps hop h
  cases op
  case step => exact absurd rfl hop
  case load image =>
    obtain rfl | ⟨image, -, hload, -, rfl⟩ | ⟨h, -⟩ | ⟨_, _, h, -⟩ | ⟨h, -⟩ | ⟨h, -⟩ | ⟨h, -⟩ := perform_cases hop h
    · exact .inl (keeps_refl _ _)
    · exact .inr ⟨image, hload, rfl⟩
    all_goals cases h
  all_goals exact .inl (hkeeps.mono (by simp [Operation.writes]))

theorem cause_congr {f : FaultRecord} (hconfig : t.config = s.config) (hsp : t.sp = s.sp)
    (hreg : ∀ x, t.reg x = s.reg x) (h : f.Cause s) : f.Cause t := by
  simpa only [FaultRecord.Cause, hconfig, hsp, hreg] using h

/-- The invariant speaks of no timer and no key, and of the lifecycle only whether it has left Loading. -/
theorem inv_of_keeps (hkeeps : Keeps [.delayTimer, .soundTimer, .keys, .lifecycle] s t)
    (hrun : s.run ≠ .loading → t.run ≠ .loading) (hinv : s.Inv) : t.Inv := by
  have hconfig : t.config = s.config := hkeeps.config (by simp)
  have hmem : t.mem = s.mem := hkeeps.mem (by simp)
  have hpc : t.pc = s.pc := hkeeps.pc (by simp)
  have hreg : t.kwReg = s.kwReg := hkeeps.kwReg (by simp)
  have hkey : t.kwKey = s.kwKey := hkeeps.kwKey (by simp)
  have hfault : t.fault = s.fault := hkeeps.fault (by simp)
  have hword : t.fetchWord = s.fetchWord := fetchWord_congr hmem hpc
  constructor
  case configValid => exact hconfig ▸ hinv.configValid
  case memWf => exact hmem ▸ hinv.memWf
  case displaySize =>
    rw [hkeeps.display (by simp), hconfig]
    exact hinv.displaySize
  case keyWaitLegal =>
    rw [hreg, hkey]
    exact hinv.keyWaitLegal
  case keyWaitWord =>
    rw [hreg, hword]
    exact hinv.keyWaitWord
  case keyWaitStarted =>
    rw [hreg]
    exact hrun ∘ hinv.keyWaitStarted
  case faultStarted =>
    rw [hfault]
    exact hrun ∘ hinv.faultStarted
  case faultAtPc =>
    rw [hfault, hpc, hword]
    exact hinv.faultAtPc
  case faultCause =>
    rw [hfault]
    exact fun f hf => cause_congr hconfig (hkeeps.sp (by simp)) (hkeeps.reg (by simp)) (hinv.faultCause f hf)
  case reportsUnrecognized =>
    rw [hkeeps.reports (by simp)]
    exact hinv.reportsUnrecognized

/-- Loading an image keeps the invariant: before it no wait is in progress and no fault is recorded. -/
theorem inv_of_load (hinv : s.Inv) (hload : s.run = .loading) (a : Nat) (image : List Byte) :
    State.Inv { s with mem := s.mem.storeBytes a image, run := .running } := by
  have hidle : s.kwReg = none := by
    refine Option.eq_none_iff_forall_ne_some.2 fun x hx => ?_
    exact hinv.keyWaitStarted (Option.isSome_of_eq_some hx) hload
  have hfault : s.fault = none := by
    refine Option.eq_none_iff_forall_ne_some.2 fun f hf => ?_
    exact hinv.faultStarted (Option.isSome_of_eq_some hf) hload
  constructor
  case configValid => exact hinv.configValid
  case memWf => exact Memory.wf_storeBytes hinv.memWf a image
  case displaySize => exact hinv.displaySize
  case keyWaitLegal => exact hinv.keyWaitLegal
  case keyWaitWord => exact fun x hx => absurd (hx.symm.trans hidle) (Option.some_ne_none x)
  case keyWaitStarted => exact fun _ => RunState.noConfusion
  case faultStarted => exact fun _ => RunState.noConfusion
  case faultAtPc => exact fun f hf => absurd (hf.symm.trans hfault) (Option.some_ne_none f)
  case faultCause => exact fun f hf => absurd (hf.symm.trans hfault) (Option.some_ne_none f)
  case reportsUnrecognized => exact hinv.reportsUnrecognized

/-- Every operation keeps the invariant. -/
theorem inv_of_perform (hinv : s.Inv) (h : perform op s = .next t) : t.Inv := by
  by_cases hop : op = .step
  · subst hop
    exact inv_of_step hinv h
  obtain hkeeps | ⟨image, hload, rfl⟩ := perform_keeps_or_load hop h
  · exact inv_of_keeps hkeeps (perform_run_ne_loading h) hinv
  · exact inv_of_load hinv hload _ image

theorem config_valid_iff (c : Config) : c.valid = true ↔
    ¬(c.dispW = 0 ∨ c.dispH = 0) ∧ ¬(c.entry.toNat < 0x200 ∨ 0xFFF < c.entry.toNat) := by
  simp only [Config.valid, Bool.and_eq_true, decide_eq_true_eq]
  omega

/-- Creation answers the created state for the parameters in range, and only for those. -/
theorem create_eq_ok_iff {c : Config} : State.create c = .ok s ↔ c.valid = true ∧ s = State.created c := by
  rw [config_valid_iff, State.create]
  split_ifs with hdisp hentry <;> simp [*, eq_comm]

theorem inv_created {c : Config} (hvalid : c.valid = true) : (State.created c).Inv where
  configValid := hvalid
  memWf := Memory.wf_storeBytes (m := []) rfl 0 c.font.toList
  displaySize := List.length_replicate
  keyWaitLegal := id
  keyWaitWord _ hx := nomatch hx
  keyWaitStarted h := nomatch h
  faultStarted h := nomatch h
  faultAtPc _ hf := nomatch hf
  faultCause _ hf := nomatch hf
  reportsUnrecognized _ hr := nomatch hr

theorem inv_of_create {c : Config} (h : State.create c = .ok s) : s.Inv := by
  obtain ⟨hvalid, rfl⟩ := create_eq_ok_iff.1 h
  exact inv_created hvalid

/-- FONT's default bytes are what an unlisted address reads as, so that creation lists none of them. -/
theorem created_default : State.created Config.default = State.reset := by
  rw [State.created, State.reset]
  congr 1

theorem create_default : State.create Config.default = .ok State.reset :=
  create_eq_ok_iff.2 ⟨rfl, created_default.symm⟩

/-- From a state that meets the invariant every schedule runs to its end, in a state that meets it. -/
theorem performAll_inv (hinv : s.Inv) (ops : List Operation) : ∃ t, performAll ops s = .next t ∧ t.Inv := by
  induction ops generalizing s with
  | nil => exact ⟨s, rfl, hinv⟩
  | cons op ops ih =>
    obtain ⟨t, ht⟩ := perform_next op s
    rw [performAll, ht]
    exact ih (inv_of_perform hinv ht)

/-- A recorded fault and a started machine stay so, with all that the host's operations do not write. -/
theorem perform_keeps_of_fault {f : FaultRecord} (hf : s.fault = some f) (hs : s.run ≠ .loading)
    (h : perform op s = .next t) : Keeps [.delayTimer, .soundTimer, .keys, .lifecycle] s t := by
  by_cases hop : op = .step
  · subst hop
    have hstep : step s = .next s := step_of_not_enabled (by simp [State.stepEnabled, hf])
    obtain rfl := eq_of_next hstep h
    exact keeps_refl _ _
  · obtain hkeeps | ⟨-, hload, -⟩ := perform_keeps_or_load hop h
    · exact hkeeps
    · exact absurd hload hs

theorem performAll_keeps_of_fault {f : FaultRecord} {ops : List Operation} (hf : s.fault = some f)
    (hs : s.run ≠ .loading) (h : performAll ops s = .next t) :
    Keeps [.delayTimer, .soundTimer, .keys, .lifecycle] s t := by
  induction ops generalizing s with
  | nil =>
    obtain rfl := Host.Outcome.next.inj h
    exact keeps_refl _ _
  | cons op ops ih =>
    obtain ⟨u, hu⟩ := perform_next op s
    rw [performAll, hu] at h
    have hkeeps := perform_keeps_of_fault hf hs hu
    have hrest := ih ((hkeeps.fault (by simp)).trans hf) (perform_run_ne_loading hu hs) h
    exact (hkeeps.trans hrest).mono (by simp)

end Machine

open Machine

/-- Settles O59: by the three cases of a Step. -/
theorem stepKeepsInvariant : Obligations.StepKeepsInvariant := fun _ _ => inv_of_step

/-- Settles O58: the created state has the display's size, canonical memory, and no wait, fault or report. -/
theorem creationEstablishesInvariant : Obligations.CreationEstablishesInvariant := fun _ _ => inv_of_create

/-- Settles O57: the invariant at creation, with the default parameters. -/
theorem invariantHoldsAtReset : Obligations.InvariantHoldsAtReset := inv_of_create create_default

/-- Settles O60: from the creation, by induction over the schedule. -/
theorem everyScheduleKeepsInvariant : Obligations.EveryScheduleKeepsInvariant :=
  fun _ _ ops h => performAll_inv (inv_of_create h) ops

/-- Settles O56: by induction over the schedule. In a faulted state no Step is enabled, and the invariant says that it
is past Loading, so no Load is accepted. -/
theorem faultIsFinal : Obligations.FaultIsFinal := by
  intro ops s t f hinv hf h
  have hs : s.run ≠ .loading := hinv.faultStarted (Option.isSome_of_eq_some hf)
  have hkeeps := performAll_keeps_of_fault hf hs h
  exact ⟨(hkeeps.fault (by simp)).trans hf, hkeeps.frameExcept⟩

/-- Settles O41: the invariant makes the fetched instruction the wait's own FX0A, whose three outcomes are the clauses;
the host's operations do not write the wait. -/
theorem noLaterInstructionUntilRelease : Obligations.NoLaterInstructionUntilRelease := by
  intro s x hinv hx
  refine ⟨fun t hrun hfault hstep => ?_, fun t op hop h => ?_⟩
  · rw [step_of_decodeWord hrun hfault (hinv.keyWaitWord x hx)] at hstep
    obtain ⟨-, rfl⟩ | ⟨k, -, -, rfl⟩ | ⟨k, hkey, hreleased, rfl⟩ := exec_ldVxK_cases hstep
    · rw [advancePc_pc_sub_two]
      exact .inl ⟨rfl, (keeps_keyWait s _ _).frameExcept⟩
    · rw [advancePc_pc_sub_two]
      exact .inl ⟨hx, (keeps_refl s _).frameExcept⟩
    · refine .inr ⟨k, hkey, hreleased, ?_, rfl, rfl, rfl, regsExcept_setReg s x _, ?_⟩
      · exact toNat_reg_setReg_key s.advancePc x k
      · exact (((keeps_setPc s _).trans (keeps_setReg _ x _)).trans (keeps_keyWait _ _ _)).mono (by simp) |>.frameExcept
  · have hkeeps := perform_keeps hop h
    have hwait : .keyWait ∉ op.writes := by cases op <;> simp [Operation.writes]
    exact ⟨(hkeeps.kwReg hwait).trans hx, hkeeps.kwKey hwait⟩

/-- Settles O48: a Step writes no `run`, and each operation of the host makes its own transition. -/
theorem lifecycleIsOneWay : Obligations.LifecycleIsOneWay := by
  refine ⟨fun c s h => ?_, fun s h => ?_, fun op s t h => ?_⟩
  · obtain ⟨-, rfl⟩ := create_eq_ok_iff.1 h
    rfl
  · exact stepNotAcceptedChangesNothing s (.inl h)
  · by_cases hop : op = .step
    · subst hop
      obtain ⟨-, rfl⟩ | ⟨-, i, -, hexec⟩ | ⟨-, -, rfl⟩ := step_cases h
      · exact .inl rfl
      · exact .inl ((exec_run hexec).trans rfl)
      · exact .inl rfl
    · obtain rfl | ⟨image, rfl, hload, -, rfl⟩ | ⟨-, -, rfl⟩ | ⟨-, -, -, -, -, rfl⟩ | ⟨rfl, hrun, rfl⟩ |
        ⟨rfl, hrun, rfl⟩ | ⟨rfl, hrun, rfl⟩ := perform_cases hop h
      · exact .inl rfl
      · exact .inr (.inl ⟨hload, rfl, image, rfl⟩)
      · exact .inl rfl
      · exact .inl rfl
      · exact .inr (.inr (.inl ⟨hrun, rfl, rfl⟩))
      · exact .inr (.inr (.inr (.inl ⟨hrun, rfl, rfl⟩)))
      · exact .inr (.inr (.inr (.inr ⟨hrun, rfl, rfl⟩)))

/-- Settles O55: only the report of an unrecognized word writes the reports, and nothing writes the parameters. -/
theorem parametersFixedAndReportsAppended : Obligations.ParametersFixedAndReportsAppended := by
  intro op s t h
  by_cases hop : op = .step
  · subst hop
    obtain ⟨-, rfl⟩ | ⟨-, i, -, hexec⟩ | ⟨-, -, rfl⟩ := step_cases h
    · exact ⟨rfl, [], by simp⟩
    · exact ⟨(exec_config hexec).trans rfl, [], by simp [exec_reports hexec, State.advancePc]⟩
    · exact ⟨rfl, _, rfl, Nat.le_refl 1⟩
  · have hkeeps := perform_keeps hop h
    have hconfig : .config ∉ op.writes := by cases op <;> simp [Operation.writes]
    have hreports : .reports ∉ op.writes := by cases op <;> simp [Operation.writes]
    exact ⟨hkeeps.config hconfig, [], by simp [hkeeps.reports hreports]⟩

end Sys2Proof
end

section
/-! SUPPORT. Which part belongs to which instructions and operations (10_state.md R21 to R27, 20_memory.md R66): an
operation that changes a part writes it, and the statements of the family that rest on this and on `exec_graft`. -/

namespace Sys2Proof

namespace Machine

variable {s t : State} {i : Instr} {op : Operation} {p : Part}

/-- An operation keeps a part, or writes it itself, or is the Step of an instruction that writes it. PC, which every
Step advances, and the reports are left out. -/
theorem perform_writes_cases (h : perform op s = .next t) (hpc : p ≠ .pc) (hreports : p ≠ .reports) :
    t.graft p s = t ∨ p ∈ op.writes ∨
    (op = .step ∧ ∃ i, decodeWord s.fetchWord = .ok i ∧ exec i s.advancePc = .next t ∧ p ∈ i.writes) := by
  by_cases hop : op = .step
  · subst hop
    obtain ⟨-, rfl⟩ | ⟨-, i, hd, hexec⟩ | ⟨-, -, rfl⟩ := step_cases h
    · exact .inl (graft_self _ _)
    · by_cases hw : p ∈ i.writes
      · exact .inr (.inr ⟨rfl, i, hd, hexec, hw⟩)
      · exact .inl (((keeps_setPc s _).trans (exec_keeps hexec)) p (by simp [hpc, hw]))
    · cases p
      case pc => exact absurd rfl hpc
      case reports => exact absurd rfl hreports
      all_goals exact .inl rfl
  · by_cases hw : p ∈ op.writes
    · exact .inr (.inl hw)
    · exact .inl (perform_keeps hop h p hw)

/-- The registers an instruction may change: its destination, VF for the table of R21, FX65's range. -/
theorem exec_reg_of_not_named {z : Nibble} (h : exec i s = .next t) (hdest : i.destReg ≠ some z)
    (hrange : ∀ x, i = .ldVxMemI x → x.toNat < z.toNat) (hVF : i.writesVF = true → z ≠ vfIndex) :
    t.reg z = s.reg z := by
  cases i
  case ldVxK x =>
    have hz : z ≠ x := fun e => hdest (e ▸ rfl)
    obtain ⟨-, rfl⟩ | ⟨-, -, -, rfl⟩ | ⟨k, -, -, rfl⟩ := exec_ldVxK_cases h
    · rfl
    · rfl
    · exact reg_setReg_other s x z _ hz
  case addIVx x =>
    by_cases ho : indexOverflow s.i (s.reg x) = true
    · obtain rfl := eq_of_next (exec_addIVx_of_overflow ho) h
      exact reg_setReg_other _ vfIndex z _ (hVF rfl)
    · obtain rfl := eq_of_next (exec_addIVx_of_fits ho) h
      rfl
  case ldVxMemI x =>
    obtain rfl := Host.Outcome.next.inj h
    have := x.isLt
    have hz := hrange x rfl
    rw [reg_advanceIndex, reg_setRegsFrom _ _ _ (by rw [bytesAtI_length]; omega), if_pos (Nat.zero_le _),
      bytesAtI_getD, if_neg (by omega)]
  case drw =>
    obtain rfl := Host.Outcome.next.inj h
    exact reg_setReg_other _ vfIndex z _ (hVF rfl)
  case ldVxNn x _ | addVxNn x _ | ldVxVy x _ | ldVxDt x | rnd x _ =>
    obtain rfl := Host.Outcome.next.inj h
    exact reg_setReg_other s x z _ fun e => hdest (e ▸ rfl)
  case orVxVy x _ | andVxVy x _ | xorVxVy x _ =>
    obtain rfl := Host.Outcome.next.inj h
    have hz : z ≠ x := fun e => hdest (e ▸ rfl)
    rw [reg_setLogic, if_neg fun e => hVF rfl e.2, if_neg hz]
  case addVxVy x _ | sub x _ | shr x _ | subn x _ | shl x _ =>
    obtain rfl := Host.Outcome.next.inj h
    have hz : z ≠ x := fun e => hdest (e ▸ rfl)
    rw [reg_setRegThenVF, if_neg (hVF rfl), if_neg hz]
  -- no other instruction writes a register
  all_goals exact (exec_keeps h).reg (by simp [Instr.writes]) z

end Machine

open Machine

/-- Settles O49: the keys are written by KeyEvent alone and read by EX9E, EXA1 and FX0A alone. -/
theorem keysWrittenByKeyEventReadByThree : Obligations.KeysWrittenByKeyEventReadByThree := by
  refine ⟨fun op s t h hne => ?_, fun i s t ks hi h => ?_⟩
  · obtain hkept | hw | ⟨-, i, -, -, hw⟩ := perform_writes_cases (p := .keys) h (by simp) (by simp)
    · exact absurd (congrArg State.keys hkept).symm hne
    · cases op <;> simp [Operation.writes] at hw
      exact ⟨_, _, rfl⟩
    · cases i <;> simp [Instr.writes] at hw
  · have hr : .keys ∉ i.reads := by cases i <;> simp_all [Instr.reads, Instr.readsKeys]
    have hw : .keys ∉ i.writes := by cases i <;> simp [Instr.writes]
    exact exec_graft h hr hw { s with keys := ks }

/-- Settles O50: the display is written and read by 00E0 and DXYN alone. -/
theorem displayBelongsToClearAndDraw : Obligations.DisplayBelongsToClearAndDraw := by
  refine ⟨fun op s t h hne => ?_, fun i s t d hcls hdrw h => ?_⟩
  · obtain hkept | hw | ⟨rfl, i, hd, -, hw⟩ := perform_writes_cases (p := .display) h (by simp) (by simp)
    · exact absurd (congrArg State.display hkept).symm hne
    · cases op <;> simp [Operation.writes] at hw
    · cases i <;> simp [Instr.writes] at hw
      case cls => exact ⟨rfl, .inl hd⟩
      case drw x y n => exact ⟨rfl, .inr ⟨x, y, n, hd⟩⟩
  · have hr : .display ∉ i.reads := by cases i <;> simp_all [Instr.reads]
    have hw : .display ∉ i.writes := by cases i <;> simp_all [Instr.writes]
    exact exec_graft h hr hw { s with display := d }

/-- Settles O51: memory is written by Load, FX33 and FX55 alone, and read after the fetch by FX65 and DXYN alone. -/
theorem memoryBelongsToItsInstructions : Obligations.MemoryBelongsToItsInstructions := by
  refine ⟨fun op s t h hne => ?_, fun i s t m hmem hdrw h => ?_⟩
  · obtain hkept | hw | ⟨rfl, i, hd, -, hw⟩ := perform_writes_cases (p := .memory) h (by simp) (by simp)
    · exact absurd (congrArg State.mem hkept).symm hne
    · cases op <;> simp [Operation.writes] at hw
      exact .inl ⟨_, rfl⟩
    · cases i <;> simp [Instr.writes] at hw
      case ldBVx x => exact .inr ⟨rfl, x, .inl hd⟩
      case ldMemIVx x => exact .inr ⟨rfl, x, .inr hd⟩
  · have hr : .memory ∉ i.reads := by cases i <;> simp_all [Instr.reads]
    have hw : .memory ∉ i.writes := by cases i <;> simp_all [Instr.writes]
    exact exec_graft h hr hw { s with mem := m }

/-- Settles O52: DT is written by Tick and FX15 and read by FX07, ST is written by Tick and FX18 and read by none. -/
theorem timersBelongToTheirInstructions : Obligations.TimersBelongToTheirInstructions := by
  refine ⟨fun op s t h => ⟨fun hne => ?_, fun hne => ?_⟩, fun i s t b hi h => ?_, fun i s t b hi h => ?_⟩
  · obtain hkept | hw | ⟨rfl, i, hd, -, hw⟩ := perform_writes_cases (p := .delayTimer) h (by simp) (by simp)
    · exact absurd (congrArg State.dt hkept).symm hne
    · cases op <;> simp [Operation.writes] at hw
      exact .inl rfl
    · cases i <;> simp [Instr.writes] at hw
      exact .inr ⟨rfl, _, hd⟩
  · obtain hkept | hw | ⟨rfl, i, hd, -, hw⟩ := perform_writes_cases (p := .soundTimer) h (by simp) (by simp)
    · exact absurd (congrArg State.st hkept).symm hne
    · cases op <;> simp [Operation.writes] at hw
      exact .inl rfl
    · cases i <;> simp [Instr.writes] at hw
      exact .inr ⟨rfl, _, hd⟩
  · have hr : .delayTimer ∉ i.reads := by cases i <;> simp_all [Instr.reads]
    have hw : .delayTimer ∉ i.writes := by cases i <;> simp_all [Instr.writes]
    exact exec_graft h hr hw { s with dt := b }
  · have hr : .soundTimer ∉ i.reads := by cases i <;> simp [Instr.reads]
    have hw : .soundTimer ∉ i.writes := by cases i <;> simp_all [Instr.writes]
    exact exec_graft h hr hw { s with st := b }

/-- Settles O53: the stack and SP are written and read by 2NNN and 00EE alone, and a fault of either keeps both. -/
theorem stackBelongsToCallAndReturn : Obligations.StackBelongsToCallAndReturn := by
  refine ⟨fun op s t h hne => ?_, fun i s t st' sp' hret hcall h => ?_⟩
  · obtain hkept | hw | ⟨rfl, i, hd, hexec, hw⟩ := perform_writes_cases (p := .stack) h (by simp) (by simp)
    · exact (hne.elim (· (congrArg State.stack hkept).symm) (· (congrArg State.sp hkept).symm)).elim
    · cases op <;> simp [Operation.writes] at hw
    · refine ⟨rfl, ?_⟩
      cases i <;> simp [Instr.writes] at hw
      case call nnn =>
        obtain ⟨st, sp, hsp, rfl⟩ | ⟨-, rfl⟩ := exec_call_cases hexec
        · exact .inl ⟨nnn, hd, hsp⟩
        · exact (hne.elim (· rfl) (· rfl)).elim
      case ret =>
        obtain ⟨a, sp, hsp, rfl⟩ | ⟨-, rfl⟩ := exec_ret_cases hexec
        · exact .inr ⟨hd, rfl, hsp⟩
        · exact (hne.elim (· rfl) (· rfl)).elim
  · have hr : .stack ∉ i.reads := by cases i <;> simp_all [Instr.reads]
    have hw : .stack ∉ i.writes := by cases i <;> simp_all [Instr.writes]
    exact exec_graft h hr hw { s with stack := st', sp := sp' }

/-- Settles O54: by instruction. -/
theorem registersChangeOnlyAsNamed : Obligations.RegistersChangeOnlyAsNamed :=
  fun _ _ _ _ h hdest hrange hVF => exec_reg_of_not_named h hdest hrange hVF

end Sys2Proof
end

section
/-! SUPPORT. Control flow, further (41_control_flow.md): the call stack's two instructions and the skips and jumps on
registers, and the statements of the family that rest on these. -/

namespace Sys2Proof

open Machine

/-- Settles O13: the push writes the one entry at SP. -/
theorem callPushesAdvancedPc : Obligations.CallPushesAdvancedPc := by
  intro nnn s hroom
  refine ⟨?_, _, exec_call_of_lt nnn hroom, rfl, rfl, Vector.getElem_set_self .., fun j hj hne => ?_,
    (keeps_stack_pc s _ _ _).frameExcept⟩
  · rw [append_packNNN]
    exact decodeWord_encodeWord (i := .call nnn) rfl
  · exact Vector.getElem_set_ne hroom hj hne.symm

/-- Settles O14: a push without room takes the fault. -/
theorem callOnFullStackFaults : Obligations.CallOnFullStackFaults := by
  intro nnn s hfull
  rw [exec_call_of_full nnn hfull, append_packNNN]
  rfl

/-- Settles O15: the pop moves SP and PC alone. -/
theorem returnPopsAddress : Obligations.ReturnPopsAddress :=
  fun s k hk hsp => ⟨decodeWord_encodeWord (i := .ret) rfl, _, exec_ret_of_pos k hk hsp, rfl, rfl, rfl,
    (keeps_stack_pc s _ _ _).frameExcept⟩

/-- Settles O16: a pop without an entry takes the fault. -/
theorem returnOnEmptyStackFaults : Obligations.ReturnOnEmptyStackFaults := fun _ h => exec_ret_of_empty h

/-- Settles O17: the return pops the entry that the call pushed. -/
theorem returnUndoesCall : Obligations.ReturnUndoesCall := by
  intro nnn s t u hroom hcall hstack hsp
  obtain rfl := eq_of_next (exec_call_of_lt nnn hroom) hcall
  refine ⟨_, exec_ret_of_pos s.sp.val hroom (congrArg Fin.val hsp), ?_, rfl⟩
  change u.stack[s.sp.val] = s.pc
  simp only [hstack, Vector.getElem_set_self]

/-- Settles O19: each skip is a choice between the state with PC past the next instruction and the state as it was. -/
theorem skipOnRegisters : Obligations.SkipOnRegisters := by
  intro x y s
  refine ⟨?_, ?_, ?_, ?_⟩
  · rw [append_packXYN]
    exact decodeWord_encodeWord (i := .seVxVy x y) rfl
  · rw [append_packXYN]
    exact decodeWord_encodeWord (i := .sneVxVy x y) rfl
  · rw [exec_seVxVy, skipIf_beq]
  · rw [exec_sneVxVy, skipIf_bne]

/-- Settles O20: a byte and a 12-bit address sum to less than 2^16. -/
theorem jumpWithRegisterOffset : Obligations.JumpWithRegisterOffset := by
  intro x nnn s
  refine ⟨?_, _, exec_jpVxNnn x nnn s, ?_, (keeps_setPc s _).frameExcept⟩
  · rw [append_packNNN]
    exact decodeWord_encodeWord (i := .jpVxNnn (nnn.extractLsb' 8 4) nnn) (decide_eq_true rfl)
  · have hoffset : (zextByte (s.jumpOffset x)).toNat = (s.jumpOffset x).toNat := BitVec.toNat_setWidth_of_le (by decide)
    have hfits : (s.jumpOffset x).toNat + nnn.toNat < 2 ^ 16 := by omega
    rw [setPc_pc, BitVec.toNat_add, hoffset, toNat_zextAddr, Nat.mod_eq_of_lt hfits, State.jumpOffset]
    split <;> rfl

end Sys2Proof
end

section
/-! SUPPORT. Arithmetic and logic, further (42_alu.md): the values that the flag instructions write, and the statements
of the family that rest on these. -/

namespace Sys2Proof

namespace Machine

variable (s : State) (x : Nibble) (b f : Byte)

theorem reg_setRegThenVF_vf : (s.setRegThenVF x b f).reg 0xF#4 = f :=
  (reg_setRegThenVF s x vfIndex b f).trans (if_pos rfl)

theorem reg_setRegThenVF_of_ne_vf (hx : x ≠ 0xF#4) : (s.setRegThenVF x b f).reg x = b := by
  rw [reg_setRegThenVF, if_neg (show x ≠ vfIndex from hx), if_pos rfl]

theorem regsExcept_setRegThenVF : RegsExcept [x, 0xF#4] s (s.setRegThenVF x b f) := by
  intro z hz
  simp only [List.mem_cons, List.not_mem_nil, or_false, not_or] at hz
  obtain ⟨hzx, hzF⟩ := hz
  rw [reg_setRegThenVF, if_neg (show z ≠ vfIndex from hzF), if_neg hzx]

theorem flagByte_decide (p : Prop) [Decidable p] : flagByte (decide p) = if p then 0x01#8 else 0x00#8 := by
  by_cases h : p <;> simp [flagByte, h]

theorem toNat_flagByte_getLsbD (b : Byte) (k : Nat) : (flagByte (b.getLsbD k)).toNat = b.toNat / 2 ^ k % 2 := by
  rw [BitVec.getLsbD, Nat.testBit_eq_decide_div_mod_eq, flagByte_decide]
  split <;> simp <;> omega

end Machine

open Machine

/-- Settles O22: one logic write for each of the three operators. -/
theorem logicResetsVF : Obligations.LogicResetsVF := fun x y s =>
  ⟨⟨_, exec_orVxVy x y s, (keeps_setLogic s x _).frameExcept, fun z => reg_setLogic s x z _⟩,
    ⟨_, exec_andVxVy x y s, (keeps_setLogic s x _).frameExcept, fun z => reg_setLogic s x z _⟩,
    ⟨_, exec_xorVxVy x y s, (keeps_setLogic s x _).frameExcept, fun z => reg_setLogic s x z _⟩⟩

/-- Settles O23: VF is written last, so it is the carry for X = F too. -/
theorem addSetsCarry : Obligations.AddSetsCarry := by
  intro x y s
  refine ⟨_, exec_addVxVy x y s, ?_, fun hx => ?_, regsExcept_setRegThenVF s x _ _,
    (keeps_setRegThenVF s x _ _).frameExcept⟩
  · rw [reg_setRegThenVF_vf, carryFlag, flagByte_decide]
  · rw [reg_setRegThenVF_of_ne_vf s x _ _ hx, BitVec.toNat_ofNat]

/-- A difference of bytes, as a number. -/
theorem toNat_byte_sub (a b : Byte) : (a - b).toNat = (a.toNat + 256 - b.toNat) % 256 := by
  rw [BitVec.toNat_sub]
  omega

/-- Settles O24: the two differences, with the operands exchanged. -/
theorem subtractSetsNotBorrow : Obligations.SubtractSetsNotBorrow := by
  intro x y s
  refine ⟨⟨_, exec_sub x y s, ?_, fun hx => ?_, regsExcept_setRegThenVF s x _ _,
    (keeps_setRegThenVF s x _ _).frameExcept⟩, _, exec_subn x y s, ?_, fun hx => ?_, regsExcept_setRegThenVF s x _ _,
    (keeps_setRegThenVF s x _ _).frameExcept⟩
  · rw [reg_setRegThenVF_vf, noBorrowFlag, flagByte_decide]
  · rw [reg_setRegThenVF_of_ne_vf s x _ _ hx, toNat_byte_sub]
  · rw [reg_setRegThenVF_vf, noBorrowFlag, flagByte_decide]
  · rw [reg_setRegThenVF_of_ne_vf s x _ _ hx, toNat_byte_sub]

/-- Settles O25: the source is the model's `shiftSource`, and the bit shifted out is its lowest or its highest. -/
theorem shiftMovesOneBitIntoVF : Obligations.ShiftMovesOneBitIntoVF := by
  rintro x y s src rfl
  change (∃ t, _ ∧ _ = (s.shiftSource x y).toNat % 2 ∧ (_ → _ = (s.shiftSource x y).toNat / 2) ∧ _) ∧
    (∃ t, _ ∧ _ = (s.shiftSource x y).toNat / 128 ∧ (_ → _ = (s.shiftSource x y).toNat * 2 % 256) ∧ _)
  refine ⟨⟨_, exec_shr x y s, ?_, fun hx => ?_, regsExcept_setRegThenVF s x _ _,
    (keeps_setRegThenVF s x _ _).frameExcept⟩, _, exec_shl x y s, ?_, fun hx => ?_, regsExcept_setRegThenVF s x _ _,
    (keeps_setRegThenVF s x _ _).frameExcept⟩
  · rw [reg_setRegThenVF_vf, shiftedOutLow, toNat_flagByte_getLsbD]
    omega
  · rw [reg_setRegThenVF_of_ne_vf s x _ _ hx, BitVec.toNat_ushiftRight, Nat.shiftRight_eq_div_pow]
  · rw [reg_setRegThenVF_vf, shiftedOutHigh, toNat_flagByte_getLsbD]
    omega
  · rw [reg_setRegThenVF_of_ne_vf s x _ _ hx, BitVec.toNat_shiftLeft, Nat.shiftLeft_eq]

/-- Settles O26: whatever the draw, V[X] is the draw AND NN. -/
theorem randomByteIsMasked : Obligations.RandomByteIsMasked := by
  intro x nn s
  have hreg : ∀ r : Byte, (rndWith r x nn s).reg x = r &&& nn := fun r => reg_setReg_same s x (r &&& nn)
  refine ⟨⟨_, exec_rnd x nn s, hreg _, ?_, ?_, regsExcept_setReg s x _, rfl,
    ((keeps_setReg s x _).trans (keeps_draws _ _)).frameExcept⟩, hreg⟩
  · rw [hreg, BitVec.and_assoc, BitVec.and_not_self]
    exact BitVec.and_zero
  · rintro rfl
    rw [hreg, BitVec.and_zero]

end Sys2Proof
end

section
/-! SUPPORT. Index and memory, further (43_index_memory.md): the bytes that FX33 and FX55 leave at I and the registers
that FX65 loads, and the statements of the family that rest on these. -/

namespace Sys2Proof

namespace Machine

theorem memExcept_storeAtI (s : State) (hwf : s.mem.wf = true) (bs : List Byte) :
    MemExcept (s.storedAt bs.length) s (s.storeAtI bs) := fun _ ha => memRead_storeAtI_outside s hwf bs ha

/-- I after FX55 and FX65, from a state that still has the old I (R174, R175). -/
theorem toNat_advanceIndex_i (s : State) (x : Nibble) : (s.advanceIndex x).i.toNat =
    if s.config.quirkMemIncrementI then (s.i.toNat + x.toNat + 1) % 65536 else s.i.toNat := by
  rw [advanceIndex_i]
  split
  · exact BitVec.toNat_ofNat ..
  · rfl

theorem indexOverflow_iff {i : Word} {b : Byte} : indexOverflow i b = true ↔ 0xFFF < i.toNat + b.toNat := by
  simp [indexOverflow]

end Machine

open Machine

/-- Settles O28: by whether the exact sum exceeds 0xFFF. -/
theorem addIndexFlagsOverflow : Obligations.AddIndexFlagsOverflow := by
  intro x s
  by_cases ho : indexOverflow s.i (s.reg x) = true
  · refine ⟨_, exec_addIVx_of_overflow ho, BitVec.toNat_ofNat .., ?_, regsExcept_setReg _ vfIndex _,
      ((keeps_setI s _).trans (keeps_setReg _ vfIndex _)).frameExcept⟩
    rw [if_pos (indexOverflow_iff.1 ho)]
    exact reg_setReg_same _ vfIndex _
  · refine ⟨_, exec_addIVx_of_fits ho, BitVec.toNat_ofNat .., ?_, fun _ _ => rfl,
      ((keeps_setI s _).mono (by simp)).frameExcept⟩
    rw [if_neg (mt indexOverflow_iff.2 ho)]
    rfl

/-- Settles O29: each digit is less than 10 and fits in its byte. -/
theorem storeDecimalDigits : Obligations.StoreDecimalDigits := by
  intro x s hwf
  have hbyte : (s.reg x).toNat < 256 := (s.reg x).isLt
  have hread : ∀ (k : Nat) (hk : k < 3), (s.storeAtI (bcdDigits (s.reg x))).memRead (s.i.toNat + k) =
      (bcdDigits (s.reg x))[k] := fun k hk => memRead_storeAtI_inside s hwf _ (Nat.le_of_ble_eq_true rfl) hk
  refine ⟨_, exec_ldBVx x s, (congrArg BitVec.toNat (hread 0 (by decide))).trans ?_,
    (congrArg BitVec.toNat (hread 1 (by decide))).trans ?_, (congrArg BitVec.toNat (hread 2 (by decide))).trans ?_,
    memExcept_storeAtI s hwf (bcdDigits (s.reg x)), (keeps_storeAtI s _).frameExcept⟩
  all_goals exact Nat.mod_eq_of_lt (by omega)

/-- Settles O30: the bytes stored are the registers' in order, at most 16 of them. -/
theorem storeRegisters : Obligations.StoreRegisters := by
  intro x s hwf
  refine ⟨_, exec_ldMemIVx x s, fun z hz => ?_, toNat_advanceIndex_i _ x, fun a ha => ?_,
    ((keeps_storeAtI s _).trans (keeps_advanceIndex _ x)).frameExcept⟩
  · have hlen := regsUpTo_length s x
    rw [memRead_advanceIndex, memRead_storeAtI_inside s hwf _ (by rw [hlen, memSize]; omega) (k := z.toNat) (by omega)]
    exact regsUpTo_getElem s x z (by omega)
  · rw [memRead_advanceIndex]
    exact memRead_storeAtI_outside s hwf _ (by rwa [regsUpTo_length])

/-- Settles O31: the bytes are read before a register is written. -/
theorem loadRegisters : Obligations.LoadRegisters := by
  intro x s
  refine ⟨_, exec_ldVxMemI x s, fun z => ?_, ?_, (exec_keeps (exec_ldVxMemI x s)).frameExcept⟩
  · rw [reg_advanceIndex, reg_setRegsFrom _ _ _ (by rw [bytesAtI_length]; omega), if_pos (Nat.zero_le _),
      Nat.sub_zero, bytesAtI_getD]
    simp only [Nat.lt_succ_iff]
  · obtain ⟨v, hv⟩ := setRegsFrom_eq s (s.bytesAtI (x.toNat + 1)) 0
    rw [toNat_advanceIndex_i, hv]

/-- Settles O32: FX55 with X at least 1 leaves V[0] and V[1] in the two bytes that the later Step fetches. -/
theorem storedWordIsFetched : Obligations.StoredWordIsFetched := by
  intro x s t u i hwf hx hexec hmem hpc hrun hfault hd
  obtain ⟨t', ht', hread, -⟩ := storeRegisters x s hwf
  obtain rfl := eq_of_next ht' hexec
  have hu : ∀ a, u.memRead a = t'.memRead a := fun a => by rw [State.memRead, hmem, State.memRead]
  have hword : u.fetchWord = joinBytes (s.reg 0x0#4) (s.reg 0x1#4) := by
    rw [State.fetchWord, State.wordAt, hu, hu, hpc]
    exact congrArg₂ joinBytes (hread 0x0#4 (Nat.zero_le _)) (hread 0x1#4 hx)
  exact step_of_decodeWord hrun hfault (hword ▸ hd)

end Sys2Proof
end

section
/-! SUPPORT. Display, further (44_display.md): a draw as the XOR of a sprite into the display, and the statements of the
family that rest on this. -/

namespace Sys2Proof

namespace Machine

/-- The sprite's bit at a cell, as a blit of the bytes at I reads it. -/
theorem spriteAt_eq_blit (s : State) (x y n : Nibble) (cx cy : Nat) : s.spriteAt x y n cx cy =
    (decide (s.anchorX x ≤ cx ∧ cx < s.anchorX x + 8 ∧ s.anchorY y ≤ cy ∧
        cy < s.anchorY y + (s.bytesAtI n.toNat).length) &&
      spriteBit ((s.bytesAtI n.toNat).getD (cy - s.anchorY y) 0x00#8) (cx - s.anchorX x)) := by
  rw [bytesAtI_length, bytesAtI_getD]
  by_cases h : s.anchorX x ≤ cx ∧ cx < s.anchorX x + 8 ∧ s.anchorY y ≤ cy ∧ cy < s.anchorY y + n.toNat
  · rw [if_pos (by omega)]
    rfl
  · rw [decide_eq_false h, Bool.false_and]
    exact Bool.and_eq_false_imp.2 fun h' => absurd (of_decide_eq_true h') h

variable {s t : State} (hlen : s.display.length = s.config.dispW * s.config.dispH) (x y n : Nibble)
include hlen

theorem drawn_length : (s.drawn x y n).cells.length = s.config.dispW * s.config.dispH :=
  (Canvas.blit_spec (s.bytesAtI n.toNat) (s.anchorY y) ⟨s.display, false⟩ hlen).1

theorem drawn_cellAt {cx cy : Nat} (hcx : cx < s.config.dispW) (hcy : cy < s.config.dispH) :
    (s.drawn x y n).cellAt s.config.dispW cx cy = (s.cell cx cy ^^ s.spriteAt x y n cx cy) := by
  rw [spriteAt_eq_blit]
  exact (Canvas.blit_spec (s.bytesAtI n.toNat) (s.anchorY y) ⟨s.display, false⟩ hlen).2.1 cx cy hcx hcy

theorem drawn_collided_iff : (s.drawn x y n).collided = true ↔
    ∃ cx cy, cx < s.config.dispW ∧ cy < s.config.dispH ∧ s.spriteAt x y n cx cy ∧ s.cell cx cy := by
  refine (Canvas.blit_spec (s.bytesAtI n.toNat) (s.anchorY y) ⟨s.display, false⟩ hlen).2.2.trans ?_
  simp only [Bool.false_eq_true, false_or, spriteAt_eq_blit, Bool.and_eq_true, decide_eq_true_eq, and_assoc]
  rfl

/-- A display of the machine's size is determined by its cells. -/
theorem display_eq_of_cells (hlen' : t.display.length = s.display.length) (hconfig : t.config = s.config)
    (hcells : ∀ cx cy, cx < s.config.dispW → cy < s.config.dispH → t.cell cx cy = s.cell cx cy) :
    t.display = s.display := by
  refine List.ext_getElem hlen' fun k hk hk' => ?_
  have hlt : k < s.config.dispW * s.config.dispH := hlen ▸ hk'
  have hW : 0 < s.config.dispW := Nat.pos_of_mul_pos_right (Nat.zero_lt_of_lt hlt)
  have hcell := hcells (k % s.config.dispW) (k / s.config.dispW) (Nat.mod_lt _ hW) (Nat.div_lt_of_lt_mul hlt)
  rw [State.cell, State.cell, hconfig, Nat.div_add_mod'] at hcell
  simpa [hk, hk'] using hcell

end Machine

open Machine

/-- Settles O34: from the spec of the blit, with VF the collision flag. -/
theorem drawXorsSpriteAndReportsCollision : Obligations.DrawXorsSpriteAndReportsCollision := by
  intro x y n s hlen
  refine ⟨_, exec_drw x y n s, fun cx cy hcx hcy => drawn_cellAt hlen x y n hcx hcy,
    (drawn_length hlen x y n).trans hlen.symm, ?_, regsExcept_setReg _ vfIndex _,
    ((keeps_display s _).trans (keeps_setReg _ vfIndex _)).frameExcept⟩
  rw [show (0xF#4 : Nibble) = vfIndex from rfl, reg_setReg_same, ← drawn_collided_iff hlen x y n]
  cases (s.drawn x y n).collided <;> simp [flagByte]

/-- Settles O35: the first draw leaves the sprite as it was, so the second XORs the same bits, and a cell under a set
bit is lit between the two exactly if it was unlit before. -/
theorem secondIdenticalDrawRestoresDisplay : Obligations.SecondIdenticalDrawRestoresDisplay := by
  intro x y n s t hlen hfirst hx hy
  obtain ⟨t', ht', hcell, hlen', -, -, hframe⟩ := drawXorsSpriteAndReportsCollision x y n s hlen
  obtain rfl := eq_of_next ht' hfirst
  have hconfig : t'.config = s.config := hframe .config (by simp)
  have hindex : t'.i = s.i := hframe .index (by simp)
  have hmem : ∀ a, t'.memRead a = s.memRead a := hframe .memory (by simp)
  have hsprite : t'.spriteAt x y n = s.spriteAt x y n := by
    funext cx cy
    simp only [State.spriteAt, hx, hy, hconfig, hindex, hmem]
  obtain ⟨u, hu, hcell', hlen'', hflag, -, hframe'⟩ :=
    drawXorsSpriteAndReportsCollision x y n t' (by rw [hlen', hconfig, hlen])
  have hconfig' : u.config = t'.config := hframe' .config (by simp)
  rw [hsprite, hconfig] at hcell' hflag
  refine ⟨u, hu, ?_, ?_⟩
  · refine display_eq_of_cells hlen (hlen''.trans hlen') (hconfig'.trans hconfig) fun cx cy hcx hcy => ?_
    rw [hcell' cx cy hcx hcy, hcell cx cy hcx hcy, Bool.xor_assoc, Bool.xor_self, Bool.xor_false]
  · have hunlit : (∃ cx cy, cx < s.config.dispW ∧ cy < s.config.dispH ∧ s.spriteAt x y n cx cy ∧ t'.cell cx cy) ↔
        ∃ cx cy, cx < s.config.dispW ∧ cy < s.config.dispH ∧ s.spriteAt x y n cx cy ∧ s.cell cx cy = false := by
      refine exists₂_congr fun cx cy => and_congr_right fun hcx => and_congr_right fun hcy => ?_
      refine and_congr_right fun hbit => ?_
      rw [hcell cx cy hcx hcy, hbit, Bool.xor_true, Bool.not_eq_true']
    rw [← hunlit]
    obtain ⟨hone, hlit⟩ | ⟨hzero, hnone⟩ := hflag
    · exact iff_of_true hone hlit
    · exact iff_of_false (by simp [hzero]) hnone

end Sys2Proof
end

section
/-! SUPPORT. Keys, reset and the host's operations, further (45_input_timer.md, 60_exceptions.md,
70_reset_and_hazards.md): memory at creation and after a Load, and the statements of the family that rest on these. -/

namespace Sys2Proof

namespace Machine

theorem keyIndex_of_le_or_mask {c : Config} {b : Byte} (h : b.toNat ≤ 0x0F ∨ c.keyIndexPolicy = .mask) :
    keyIndex c b = .ok (b.setWidth 4) := h.elim (keyIndex_of_le c) fun hmask => keyIndex_of_mask hmask b

/-! Memory at creation (R35, R57). -/

theorem unlisted_of_ge {a : Nat} (h : 80 ≤ a) : Memory.unlisted a = 0x00#8 :=
  List.getD_eq_default defaultFontBytes 0x00#8 h

theorem created_memRead_font (c : Config) {a : Nat} (h : a < 80) : (State.created c).memRead a = c.font[a] := by
  have hread := Memory.read_storeBytes_inside (m := []) rfl (a := 0) (bs := c.font.toList) (k := a)
    (by rw [Vector.length_toList]; decide) (by rwa [Vector.length_toList])
  rw [Nat.zero_add] at hread
  exact hread.trans (Vector.getElem_toList ..)

theorem created_memRead_above (c : Config) {a : Nat} (hfont : 80 ≤ a) (ha : a < 4096) :
    (State.created c).memRead a = 0x00#8 := by
  have hmod : a % memSize = a := Nat.mod_eq_of_lt ha
  have hread := Memory.read_storeBytes_outside (m := []) rfl (a := 0) (a' := a) (bs := c.font.toList) fun k hk => by
    rw [Vector.length_toList] at hk
    rw [Nat.zero_add, Nat.mod_eq_of_lt (by rw [memSize]; omega)]
    omega
  rw [State.memRead, hmod]
  exact hread.trans (unlisted_of_ge hfont)

/-! Load by its case (R246). -/

variable {s : State} {image : List Byte}

theorem loadProgram_fits (hload : s.run = .loading) (hlen : image.length ≤ memSize - s.config.entry.toNat) :
    loadProgram image s =
      .loaded { s with mem := s.mem.storeBytes s.config.entry.toNat image, run := .running } := by
  rw [loadProgram, if_pos hload, if_neg (Nat.not_lt.2 hlen)]

theorem loadProgram_oversize (hload : s.run = .loading) (hlen : memSize - s.config.entry.toNat < image.length) :
    loadProgram image s = .oversize := by
  rw [loadProgram, if_pos hload, if_pos hlen]

theorem loadProgram_notAccepted (hload : s.run ≠ .loading) : loadProgram image s = .notAccepted := by
  rw [loadProgram, if_neg hload]

theorem toNat_decTimer (b : Byte) : (decTimer b).toNat = b.toNat - 1 := by
  unfold decTimer
  split
  · simp [*]
  · rename_i h
    rw [BitVec.toNat_sub_of_le]
    · rfl
    · bv_omega

end Machine

open Machine

/-- Settles O36: the key number is in range or masked, so no fault is taken. -/
theorem skipOnKey : Obligations.SkipOnKey := by
  intro x s h
  have hkey := keyIndex_of_le_or_mask h
  refine ⟨exec_skp_of_ok hkey, ?_⟩
  rw [exec_sknp_of_ok hkey]
  cases s.keyPressed ((s.reg x).setWidth 4) <;> rfl

/-- Settles O37: the key number is refused by the policy. -/
theorem keyIndexOutOfRangeFaults : Obligations.KeyIndexOutOfRangeFaults := by
  intro x s hx hpolicy
  have hkey := keyIndex_of_gt hpolicy hx
  rw [exec_skp_of_error hkey, exec_sknp_of_error hkey, append_packXNN, append_packXNN]
  exact ⟨rfl, rfl⟩

/-- Settles O39: with no key latched the scan gives the lowest pressed key; with a key held PC goes back alone. -/
theorem keyWaitLatchesLowestPressedKeyAndHolds : Obligations.KeyWaitLatchesLowestPressedKeyAndHolds := by
  refine fun x s => ⟨fun hidle => ?_, fun k hkey hheld => exec_ldVxK_of_held hkey hheld⟩
  exact ⟨_, exec_ldVxK_of_idle hidle, rfl, rfl, lowestPressed_none s, lowestPressed_some s,
    ((keeps_setPc s (s.pc - 2#16)).trans (keeps_keyWait _ (some x) s.lowestPressed)).frameExcept⟩

/-- Settles O40: the wait completes with the latched code in V[X]. -/
theorem keyWaitCompletesOnRelease : Obligations.KeyWaitCompletesOnRelease := fun x k s hkey hreleased =>
  ⟨_, exec_ldVxK_of_released hkey hreleased, toNat_reg_setReg_key s x k, rfl, rfl, regsExcept_setReg s x _,
    ((keeps_setReg s x _).trans (keeps_keyWait _ _ _)).frameExcept⟩

/-- Settles O43: creation stores FONT from address 0 into memory that lists nothing. -/
theorem creationPlacesFont : Obligations.CreationPlacesFont := by
  refine fun c => ⟨fun hinvalid => ?_, fun hvalid => ?_⟩
  · cases hcreate : State.create c with
    | error r => exact ⟨r, rfl⟩
    | ok s =>
      obtain ⟨hvalid, -⟩ := create_eq_ok_iff.1 hcreate
      exact absurd (hvalid.symm.trans hinvalid) (by decide)
  · exact ⟨_, create_eq_ok_iff.2 ⟨hvalid, rfl⟩, rfl, rfl, rfl, fun _ => created_memRead_font c,
      fun _ => created_memRead_above c⟩

/-- Settles O42: reset is the creation at the default parameters, and each entry of the table is read off it. -/
theorem resetStateIsTheTable : Obligations.ResetStateIsTheTable := by
  have hcreated := created_default
  refine ⟨create_default, rfl, rfl, rfl, rfl, fun x => ?_, fun j hj => ?_, rfl, rfl, reset_display_length, reset_cell,
    fun k => ?_, rfl, rfl, fun a h => ?_, fun a hfont h => ?_, rfl, rfl, rfl⟩
  · exact Vector.getElem_replicate ..
  · exact Vector.getElem_replicate ..
  · exact Vector.getElem_replicate ..
  · exact hcreated ▸ created_memRead_font Config.default h
  · exact hcreated ▸ created_memRead_above Config.default hfont h

/-- Settles O44: by the three answers of Load. A fitting image does not wrap, so it leaves the bytes outside it. -/
theorem loadPlacesImageOrRefuses : Obligations.LoadPlacesImageOrRefuses := by
  intro image s hwf hvalid
  refine ⟨fun hload hlen => ?_, fun hload hlen => ?_, fun hload => ?_⟩
  · have hentry : s.config.entry.toNat ≤ 0xFFF := by
      have hranges := (config_valid_iff s.config).1 hvalid
      omega
    refine ⟨{ s with mem := s.mem.storeBytes s.config.entry.toNat image, run := .running }, ?_, rfl, fun j hj => ?_,
      fun a ha hout => ?_, (keeps_load s _ _).frameExcept⟩
    · rw [perform, loadProgram_fits hload hlen]
    · exact Memory.read_storeBytes_inside hwf (hlen.trans (Nat.sub_le _ _)) hj
    · refine Memory.read_storeBytes_outside hwf fun k hk => ?_
      rw [memSize, Nat.mod_eq_of_lt (by omega), Nat.mod_eq_of_lt ha]
      omega
  · have hoversize := loadProgram_oversize hload hlen
    exact ⟨hoversize, by rw [perform, hoversize]⟩
  · have hrefused := loadProgram_notAccepted (image := image) hload
    exact ⟨hrefused, by rw [perform, hrefused]⟩

/-- Settles O45: acceptance is by the lifecycle alone. -/
theorem tickDecrementsSaturating : Obligations.TickDecrementsSaturating := by
  refine fun s => ⟨fun hrun => ?_, fun hquit => ?_⟩
  · refine ⟨tick s, ?_, toNat_decTimer _, toNat_decTimer _, (keeps_tick s).frameExcept⟩
    simp [perform, accepts, hrun]
  · simp [perform, accepts, hquit]

/-- Settles O46: the code names one entry of the key vector. -/
theorem keyEventSetsOneKey : Obligations.KeyEventSetsOneKey := by
  refine fun code pressed s => ⟨fun hcode hrun => ?_, fun h => ?_⟩
  · refine ⟨keyEvent (BitVec.ofNat 4 code) pressed s, ?_, fun k => ?_, (keeps_keyEvent s _ pressed).frameExcept⟩
    · simp [perform, accepts, hrun, hcode]
    · have hmod : (BitVec.ofNat 4 code).toNat = code := Nat.mod_eq_of_lt hcode
      simp only [State.keyPressed, keyEvent_keys, Vector.getElem_set, hmod, eq_comm]
  · have hrefused : accepts (.keyEvent code pressed) s = false := by
      obtain hcode | hquit := h
      · simp [accepts, hcode]
      · simp [accepts, hquit]
    simp [perform, hrefused]

/-- Settles O47: each operation by whether the table accepts it. -/
theorem pauseResumeQuitFollowTable : Obligations.PauseResumeQuitFollowTable := by
  intro s
  refine ⟨?_, ?_, ?_, rfl⟩
  · simp [perform, accepts, State.setRun]
  · simp [perform, accepts, State.setRun]
  · by_cases hquit : s.run = .quit
    · simp [perform, accepts, ← hquit]
    · simp [perform, accepts, hquit, State.setRun]

end Sys2Proof
end
